-- ==== Sys2Proof/Word.lean ====
section
/-! DEFINITION. The word types of the block: every number is unsigned, bit 0 is the least significant bit (R12). -/

namespace Sys2Proof

/-- An operation word (R90). -/
abbrev Word := BitVec 16

/-- One byte of the bit buffer BUF (R33). -/
abbrev Byte := BitVec 8

/-- A millisecond count or step count: TIME, LAST, STEP (R22, R23, R27). -/
abbrev Count := BitVec 32

end Sys2Proof
end

