-- ==== Sys2Proof/Syntax.lean ====
section
/-! DEFINITION. The thirteen operations, one constructor per row of the opcode map (R95), with the operands of the
assembler syntax (R107) as plain numbers. WellFormed.lean says which operands have an encoding. -/

namespace Sys2Proof

/-- An operation with its operands (R107). The composite operations compute their operands and carry none (R94). -/
inductive Instr where
  /-- `PSET voice, step, active` (R120). -/
  | pset (voice step : Nat) (active : Bool)
  /-- `PGET voice, step` (R121). -/
  | pget (voice step : Nat)
  /-- `BSET i, value` (R130). -/
  | bset (i : Nat) (value : Bool)
  /-- `BGET i` (R131). -/
  | bget (i : Nat)
  /-- `FLUSH` (R135). -/
  | flush
  /-- `KRST` (R146). -/
  | krst
  /-- `KPOLL` (R147). -/
  | kpoll
  /-- `TADV` (R162). -/
  | tadv
  /-- `NDISP step` (R175). -/
  | ndisp (step : Nat)
  /-- `RENDER` (R187). -/
  | render
  /-- `DISPATCH` (R188). -/
  | dispatch
  /-- `ADVANCE` (R189). -/
  | advance
  /-- `INPUT` (R190). -/
  | input
deriving DecidableEq, Repr

end Sys2Proof
end

