-- ==== Sys2Proof/WellFormed.lean ====
section
/-! DEFINITION. The operand ranges of the assembler syntax (R107): "An operand outside the listed range is an assembly
error, not an encoding." The ranges are those of the fields VC and IDX (R91), not those of a configuration. -/

namespace Sys2Proof

/-- A voice operand fits the field VC: 0 to 7 (R91, R107). -/
abbrev FitsVoice (v : Nat) : Prop := v < 8

/-- A step or bit index operand fits the field IDX: 0 to 255 (R91, R107). -/
abbrev FitsIndex (i : Nat) : Prop := i < 256

/-- Every operand lies in the range R107 lists for it. -/
def Instr.wellFormed : Instr → Bool
  | .pset voice step _ => decide (FitsVoice voice) && decide (FitsIndex step)
  | .pget voice step => decide (FitsVoice voice) && decide (FitsIndex step)
  | .bset i _ => decide (FitsIndex i)
  | .bget i => decide (FitsIndex i)
  | .flush => true
  | .krst => true
  | .kpoll => true
  | .tadv => true
  | .ndisp step => decide (FitsIndex step)
  | .render => true
  | .dispatch => true
  | .advance => true
  | .input => true

/-- `Instr.wellFormed` as a proposition, the form statements use. -/
abbrev Instr.WellFormed (i : Instr) : Prop := i.wellFormed = true

end Sys2Proof
end

