-- ==== Sys2Proof/Decode.lean ====
section
/-! DEFINITION. The decoder of R96, total on 16-bit words and driven by the opcode map of R95; its inverse, the encoder;
and the decoder on words as spec/opcode_table.json numbers their bits. -/

namespace Sys2Proof

/-! ### Fields (R91) -/

/-- The opcode field OP = w[15:12]. -/
def opField (w : Word) : BitVec 4 := w.extractLsb' 12 4

/-- The boolean operand A = w[11]; 1 is true. -/
def aField (w : Word) : Bool := w.getLsbD 11

/-- The voice index VC = w[10:8]. -/
def vcField (w : Word) : Nat := (w.extractLsb' 8 3).toNat

/-- The step or bit index IDX = w[7:0]. -/
def idxField (w : Word) : Nat := (w.extractLsb' 0 8).toNat

/-! ### The opcode map (R95) -/

/-- The mnemonics of R95. -/
inductive Mnemonic where
  | pset | pget | bset | bget | flush | krst | kpoll | tadv | ndisp | render | dispatch | advance | input
deriving DecidableEq, Repr

/-- One row of the opcode map: a word `w` selects it when `(w & mask) = pattern`. -/
structure OpRow where
  mnemonic : Mnemonic
  pattern : Word
  mask : Word
deriving DecidableEq, Repr

/-- The thirteen rows of R95, in the table's order. -/
def opcodeMap : List OpRow :=
  [⟨.pset, 0x1000#16, 0xF000#16⟩, ⟨.pget, 0x2000#16, 0xF800#16⟩, ⟨.bset, 0x3000#16, 0xF700#16⟩,
   ⟨.bget, 0x4000#16, 0xFF00#16⟩, ⟨.flush, 0x5000#16, 0xFFFF#16⟩, ⟨.krst, 0x6000#16, 0xFFFF#16⟩,
   ⟨.kpoll, 0x7000#16, 0xFFFF#16⟩, ⟨.tadv, 0x8000#16, 0xFFFF#16⟩, ⟨.ndisp, 0x9000#16, 0xFF00#16⟩,
   ⟨.render, 0xA000#16, 0xFFFF#16⟩, ⟨.dispatch, 0xB000#16, 0xFFFF#16⟩, ⟨.advance, 0xC000#16, 0xFFFF#16⟩,
   ⟨.input, 0xD000#16, 0xFFFF#16⟩]

/-- `(w & mask) = match` (R95). -/
def OpRow.selects (row : OpRow) (w : Word) : Bool := w &&& row.mask == row.pattern

/-- The operation of a row with the operands of R93, taken from the fields its format uses (R92). -/
def operandsOf (m : Mnemonic) (w : Word) : Instr :=
  match m with
  | .pset => .pset (vcField w) (idxField w) (aField w)
  | .pget => .pget (vcField w) (idxField w)
  | .bset => .bset (idxField w) (aField w)
  | .bget => .bget (idxField w)
  | .flush => .flush
  | .krst => .krst
  | .kpoll => .kpoll
  | .tadv => .tadv
  | .ndisp => .ndisp (idxField w)
  | .render => .render
  | .dispatch => .dispatch
  | .advance => .advance
  | .input => .input

/-- Why a word is illegal: the two cases of R97. Both raise the one fault ILLEGAL_OP. -/
inductive IllegalWord where
  /-- Case (a): the opcode 0x0, 0xE or 0xF is reserved. -/
  | reservedOpcode
  /-- Case (b): a field that the format requires to be zero is not zero. -/
  | nonzeroUnusedField
deriving DecidableEq, Repr

/-- The case of R97 that an illegal word falls under. -/
def illegalCase (w : Word) : IllegalWord :=
  if opField w = 0x0#4 ∨ opField w = 0xE#4 ∨ opField w = 0xF#4 then .reservedOpcode else .nonzeroUnusedField

/-- The decoder of R96: one operation with its operands, or the verdict illegal. -/
def decode (w : Word) : Except IllegalWord Instr :=
  match opcodeMap.find? (fun row => row.selects w) with
  | some row => .ok (operandsOf row.mnemonic w)
  | none => .error (illegalCase w)

/-! ### The encoder (R96) -/

/-- `(OP << 12) | (A << 11) | (VC << 8) | IDX`. -/
def assemble (op : Nat) (a : Bool) (vc idx : Nat) : Word :=
  (BitVec.ofNat 16 op <<< 12) ||| (BitVec.ofNat 16 a.toNat <<< 11) ||| (BitVec.ofNat 16 vc <<< 8)
    ||| BitVec.ofNat 16 idx

/-- The word of an operation, with the fields its format does not use 0 (R96, R107). -/
def encode : Instr → Word
  | .pset voice step active => assemble 0x1 active voice step
  | .pget voice step => assemble 0x2 false voice step
  | .bset i value => assemble 0x3 value 0 i
  | .bget i => assemble 0x4 false 0 i
  | .flush => assemble 0x5 false 0 0
  | .krst => assemble 0x6 false 0 0
  | .kpoll => assemble 0x7 false 0 0
  | .tadv => assemble 0x8 false 0 0
  | .ndisp step => assemble 0x9 false 0 step
  | .render => assemble 0xA false 0 0
  | .dispatch => assemble 0xB false 0 0
  | .advance => assemble 0xC false 0 0
  | .input => assemble 0xD false 0 0

/-! ### Words as the opcode table numbers them -/

/-- The operation word whose low `nbits` bits are those of `w` and whose other bits are 0. -/
def tableWord (nbits w : Nat) : Word := BitVec.ofNat 16 (w % 2 ^ nbits)

/-- What the decoder reads from an operation word whose bits are `w`; `none` where it answers illegal. An operation is one
16-bit word, so there are no later words (R90). -/
def decodeTableWord (nbits w : Nat) : Option Instr :=
  match decode (tableWord nbits w) with
  | .ok i => some i
  | .error _ => none

end Sys2Proof
end

