-- ==== Sys2Proof/Config.lean ====
section
/-! DEFINITION. The configuration record CFG of R7, its canonical value, and the free values of the environment.
The configuration is fixed before reset and never changes during a run; the model keeps it as a field of State, so that a
statement about every state holds for every configuration (log entry 1). -/

namespace Sys2Proof

/-- The fields of R7's table. `INPUT_VOICE` has the one legal value 0 and is `inputVoice`. -/
structure Config where
  /-- `V`, number of voices, 1 to 8. -/
  voices : Nat
  /-- `S`, number of steps per voice, 1 to 256. -/
  steps : Nat
  /-- `LEN`, bit buffer length in bytes, 1 to 32. -/
  len : Nat
  /-- `KEY_COUNT`, number of keys, 1 to 256. -/
  keyCount : Nat
  /-- `KEYMAP[k]`, the pattern step key `k` writes, one entry per key (R36). -/
  keymap : List (BitVec 8)
  /-- `BPM`, the reset value of TEMPO, 1 to 65535. -/
  bpm : BitVec 16
  /-- `PITCH[v]`, the note pitch of voice `v`, one entry per voice (R36). -/
  pitch : List (BitVec 7)
  /-- `MIDI_CHANNEL`, the output channel, 1 to 16. -/
  midiChannel : Nat
  /-- `FLUSH_ORDER`, the bit index presented at each position: a permutation of 0 to 8*LEN-1. -/
  flushOrder : List Nat
  /-- `T_STROBE`, minimum high time of the strobe pulse; no rule depends on it (R138). -/
  tStrobe : Nat
  /-- `VALUE_WHEN_PRESSED`, the line level that means a closed switch. -/
  valueWhenPressed : Bool
  /-- `VALUE_TO_LATCH`, used only by the out-of-scope keypad transport. -/
  valueToLatch : Bool
  /-- `ROM`, the control store (R105). -/
  rom : List Word
  /-- `LOOP_START`, the loop re-entry index (R105). -/
  loopStart : Nat
  /-- `CLK_HZ`, frequency of the block's clock; no rule depends on it. -/
  clkHz : Nat
deriving DecidableEq, Repr

/-- `INPUT_VOICE`: all key input goes to voice 0 (R7, R190). -/
def inputVoice : Nat := 0

/-- The canonical control store, the only one the hardware is built with (R105): KRST, then RENDER, DISPATCH, ADVANCE,
INPUT. -/
def canonicalRom : List Word := [0x6000#16, 0xA000#16, 0xB000#16, 0xC000#16, 0xD000#16]

/-- `LOOP_START` of the canonical control store (R105). -/
def canonicalLoopStart : Nat := 1

/-- The configuration of `State.reset`: the defaults of R7 and the canonical control store. The fields R7 marks OPEN
(`bpm`, `pitch`, `midiChannel`, `tStrobe`, `valueWhenPressed`, `valueToLatch`, `clkHz`) are DESIGN CHOICE (log entries 2 and
3): for the first three the values of 95_test_vectors.md. -/
def Config.canonical : Config where
  voices := 4
  steps := 16
  len := 2
  keyCount := 16
  keymap := (List.range 16).map (BitVec.ofNat 8)
  bpm := 120#16
  pitch := [36#7, 38#7, 42#7, 46#7]
  midiChannel := 10
  flushOrder := List.range 16
  tStrobe := 1
  valueWhenPressed := true
  valueToLatch := true
  rom := canonicalRom
  loopStart := canonicalLoopStart
  clkHz := 1000

/-- The ranges that the register files and the fetch rest on: V, S, LEN, KEY_COUNT (R7), ROM_LEN and LOOP_START (R105).
A configuration that breaks another part of R8 (a tempo of 0, a KEYMAP entry outside the pattern, an illegal word) still runs
until it faults. -/
abbrev Config.Sized (c : Config) : Prop :=
  (1 ≤ c.voices ∧ c.voices ≤ 8) ∧ (1 ≤ c.steps ∧ c.steps ≤ 256) ∧ (1 ≤ c.len ∧ c.len ≤ 32) ∧
  (1 ≤ c.keyCount ∧ c.keyCount ≤ 256) ∧ (1 ≤ c.rom.length ∧ c.rom.length ≤ 256) ∧ c.loopStart < c.rom.length

/-- A well-formed configuration (R8): every field in its legal range, `KEYMAP[k] < S`, `FLUSH_ORDER` a permutation, every
word of `ROM` an operation. -/
abbrev Config.WellFormed (c : Config) : Prop :=
  c.Sized ∧ c.keymap.length = c.keyCount ∧ c.bpm ≠ 0#16 ∧ c.pitch.length = c.voices ∧
  (1 ≤ c.midiChannel ∧ c.midiChannel ≤ 16) ∧ 0 < c.tStrobe ∧ 0 < c.clkHz ∧
  c.flushOrder.isPerm (List.range (8 * c.len)) = true ∧ (c.keymap.all fun st => decide (st.toNat < c.steps)) = true ∧
  (c.rom.all fun w => (decode w).isOk) = true

/-! ### Free values of the environment

R166 and R35 (93_implementation_defined.md U15, U16: `any value`): between two sequencer steps TIME may move forward by any
amount and the switches may change in any way. Where a state names no such move (`State.env`), the move is one of these
constants, which have no body. -/

/-- The milliseconds that pass before the `n`th step, where nothing states them: any value (R166, log entry 4). -/
opaque Config.freeElapsed : Nat → Count

/-- The line level of key `k` at the `n`th step, where nothing states it: any value (R35, log entry 4). -/
opaque Config.freeLevel : Nat → Nat → Bool

end Sys2Proof
end

