-- ==== Sys2Proof/Machine/State.lean ====
section
/-! DEFINITION. The state of the block, every piece R20 names and no other, as plain data; the model's own fields for the
environment; the reasons a step can stop; and the state after reset (R43, R230). -/

namespace Sys2Proof.Machine

/-- A line event of LEDTRACE (R15): LED_DATA driven to 0 or 1, LED_CLK driven high or low, LED_STROBE driven high or low. -/
inductive LineEvent where
  | d0 | d1 | c1 | c0 | s1 | s0
deriving DecidableEq, Repr

/-- A note trigger `(ch, p)` of NOTETRACE: 4-bit channel, 7-bit pitch (R176). -/
structure Trigger where
  ch : BitVec 4
  pitch : BitVec 7
deriving DecidableEq, Repr

/-- The keypad event latch EVT (R32); `pressed` is 1 for pressed, 0 for released. -/
structure KeyEvent where
  valid : Bool
  pressed : Bool
  key : BitVec 8
deriving DecidableEq, Repr

/-- One move of the environment between two sequencer steps: the milliseconds that pass (R27) and the line levels of the keys
from then on (R35). -/
structure EnvMove where
  elapsed : Count
  levels : List Bool
deriving DecidableEq, Repr

/-- The whole state of the block (R20), after the configuration it was built with, and before three fields of the model's own
that hold what the environment does. -/
structure State where
  /-- CFG (R7): no operation writes it (R29, R79). -/
  cfg : Config
  /-- PAT: V rows of S flags (R21). -/
  pat : List (List Bool)
  /-- BUF: LEN bytes (R33). -/
  buf : List Byte
  /-- PREV: KEY_COUNT latches (R34). -/
  prev : List Bool
  /-- STEP (R22). -/
  step : Count
  /-- LAST (R23). -/
  last : Count
  /-- TEMPO (R26). -/
  tempo : BitVec 16
  /-- TIME (R27): moved by the environment only. -/
  time : Count
  /-- UPC (R25). -/
  upc : BitVec 8
  /-- R (R30). -/
  r : Bool
  /-- ADV (R31). -/
  adv : Bool
  /-- EVT (R32). -/
  evt : KeyEvent
  /-- FAULT (R28). -/
  fault : Bool
  /-- FCAUSE (R28). -/
  fcause : BitVec 2
  /-- FINFO (R28). -/
  finfo : Word
  /-- LED_DATA (R37). -/
  ledData : Bool
  /-- LED_CLK (R37). -/
  ledClk : Bool
  /-- LED_STROBE (R37). -/
  ledStrobe : Bool
  /-- LEDTRACE, oldest event first (R38). -/
  ledTrace : List LineEvent
  /-- NOTETRACE, oldest trigger first (R38). -/
  noteTrace : List Trigger
  /-- KEYIN, the pressed vector an operation samples: an input, not state of the block (R35). -/
  keyin : List Bool
  /-- The environment's moves that are stated, next one first (R166; log entry 4). -/
  env : List EnvMove
  /-- How many steps the environment has made: the argument of the free values (log entry 4). -/
  tick : Nat
deriving DecidableEq, Repr

/-- Why the model stops with a fault of its own. The block's three faults are no such stop: their entry is a next state
(R207). -/
inductive Fault where
  /-- Raised by `step` alone, when UPC is not an index of ROM. R70 says that this cannot be; no state that satisfies the
  model's invariant raises it. Safe: the model stops where the spec gives no behaviour (log entry 8). -/
  | fetchOutsideControlStore
deriving DecidableEq, Repr

/-- Why the model refuses an instruction. -/
inductive Refusal where
  /-- An instruction without a meaning, by its mnemonic: raised by no arm of `exec`, since every operation has its meaning.
  Safe. -/
  | notModelled (mnemonic : String)
deriving DecidableEq, Repr

/-- No event: valid 0, pressed 0, key 0 (R32). -/
def KeyEvent.absent : KeyEvent where
  valid := false
  pressed := false
  key := 0#8

/-- The state after reset of a block built with configuration `c`: every value of R43. The last three fields are the model's
own (DESIGN CHOICE, log entry 5); KEYIN and TIME are moved by the environment before any operation reads them. -/
def State.resetWith (c : Config) : State where
  cfg := c
  pat := List.replicate c.voices (List.replicate c.steps false)
  buf := List.replicate c.len 0x00#8
  prev := List.replicate c.keyCount false
  step := 0#32
  last := 0#32
  tempo := c.bpm
  time := 0#32
  upc := 0#8
  r := false
  adv := false
  evt := KeyEvent.absent
  fault := false
  fcause := 0#2
  finfo := 0x0000#16
  ledData := false
  ledClk := false
  ledStrobe := false
  ledTrace := []
  noteTrace := []
  keyin := List.replicate c.keyCount false
  env := []
  tick := 0

/-- The machine right after reset, with the canonical configuration. -/
def State.reset : State := State.resetWith Config.canonical

end Sys2Proof.Machine
end

