-- ==== Sys2Proof/Machine/Ops.lean ====
section
/-! DEFINITION. The operations the operation rules call: fault entry (R207), the environment's move (R27, R35), the sample of
the pressed vector (R145), the accessors of the pattern and bit spaces (R62, R64 to R66), the LED lines and the two traces
(R15), the advance of UPC (R186), and reset (R230). -/

namespace Sys2Proof.Machine

/-! ### How far an operation body has come -/

/-- The state of an operation body: it goes on, or it was abandoned by `raise Fault(cause)` (R15, R207). -/
inductive Progress where
  | running (s : State)
  | halted (s : State)
deriving DecidableEq, Repr

/-- The state a body has reached, abandoned or not. -/
def progressState : Progress → State
  | .running s => s
  | .halted s => s

/-- The next lines of a body; an abandoned body does not run them (R193, R207). -/
def andThen (p : Progress) (rest : State → Progress) : Progress :=
  match p with
  | .running s => rest s
  | .halted s => .halted s

/-- An operation answers the state its body reached. Fault entry is a state of the block too (R207), so this is a next state
in either case (log entry 9). -/
def complete (p : Progress) : Host.Outcome State Fault Refusal := .next (progressState p)

/-! ### The control store and fault entry -/

/-- The three fault causes (R206). -/
inductive FaultCause where
  | patternIndex | illegalOp | tempoZero
deriving DecidableEq, Repr

/-- The code of a cause in FCAUSE (R28, R206). -/
def causeCode : FaultCause → BitVec 2
  | .patternIndex => 1#2
  | .illegalOp => 2#2
  | .tempoZero => 3#2

/-- `ROM[UPC]`, the word of the operation being executed (R25). Where UPC is no index of ROM it reads 0 (log entry 8). -/
def currentWord (s : State) : Word := s.cfg.rom.getD s.upc.toNat 0x0000#16

/-- Fault entry (R207): FAULT <- 1, FCAUSE <- the code, FINFO <- ROM[UPC]; every other piece of state is kept. -/
def enterFault (cause : FaultCause) (s : State) : State :=
  { s with fault := true, fcause := causeCode cause, finfo := currentWord s }

/-- `raise Fault(cause)`: fault entry, and the rest of the operation is abandoned (R15, R207). -/
def raise (cause : FaultCause) (s : State) : Progress := .halted (enterFault cause s)

/-- `if UPC + 1 < ROM_LEN: upc <- UPC + 1 else: upc <- LOOP_START` (R186). -/
def advanceUpc (s : State) : State :=
  { s with upc := if s.upc.toNat + 1 < s.cfg.rom.length then s.upc + 1#8 else BitVec.ofNat 8 s.cfg.loopStart }

/-! ### The environment (R9, R27, R35, R166) -/

/-- The environment's next move: the first one that the state names, else a free value (log entry 4). -/
def nextMove (s : State) : EnvMove :=
  match s.env with
  | move :: _ => move
  | [] =>
    { elapsed := Config.freeElapsed s.tick, levels := (List.range s.cfg.keyCount).map (Config.freeLevel s.tick) }

/-- `KEYIN[k] = 1` exactly when the line level read for key `k` equals VALUE_WHEN_PRESSED (R35, R145). A key for which a move
gives no level is open (log entry 6). -/
def pressedVector (c : Config) (levels : List Bool) : List Bool :=
  (List.range c.keyCount).map fun k => levels.getD k (!c.valueWhenPressed) == c.valueWhenPressed

/-- One move of the environment: TIME goes forward with 32-bit wrap (R27), KEYIN becomes the pressed vector (R35). No state of
the block but TIME moves. -/
def environment (s : State) : State :=
  { s with
    time := s.time + (nextMove s).elapsed
    keyin := pressedVector s.cfg (nextMove s).levels
    env := s.env.tail
    tick := s.tick + 1 }

/-- `sample()`: one scan cycle, the pressed vector of the keys 0 to KEY_COUNT-1 (R15, R145). -/
def sample (s : State) : List Bool := (List.range s.cfg.keyCount).map fun k => s.keyin.getD k false

/-- `now()`: the value of TIME (R15). -/
def now (s : State) : Count := s.time

/-! ### Pattern space (R61, R62) -/

/-- A pattern address is in range when `v < V` and `s < S` (R61). -/
abbrev InPattern (c : Config) (v st : Nat) : Prop := v < c.voices ∧ st < c.steps

/-- `PAT[v][s]`. -/
def patFlag (s : State) (v st : Nat) : Bool := (s.pat.getD v []).getD st false

/-- `PAT[v][s] <- a`; no other flag changes. -/
def setFlag (s : State) (v st : Nat) (a : Bool) : State :=
  { s with pat := s.pat.modify v fun row => row.set st a }

/-- `PatRead(v, s)`: the fault PATTERN_INDEX out of range, else the flag (R62). -/
def patRead (s : State) (v st : Nat) : Except FaultCause Bool :=
  if InPattern s.cfg v st then .ok (patFlag s v st) else .error .patternIndex

/-- `PatWrite(v, s, a)`: the fault PATTERN_INDEX out of range with PAT unchanged, else the flag is written (R62). -/
def patWrite (s : State) (v st : Nat) (a : Bool) : Progress :=
  if InPattern s.cfg v st then .running (setFlag s v st a) else raise .patternIndex s

/-! ### Bit space (R63 to R66) -/

/-- `index_mask(i) = (i div 8, 1 << (i mod 8))` (R64). -/
def indexMask (i : Nat) : Nat × Byte := (i / 8, 1#8 <<< (i % 8))

/-- `BufReadBit(i)`: 0 out of range, else whether the masked byte is not 0 (R65). -/
def bufReadBit (s : State) (i : Nat) : Bool :=
  if s.cfg.len ≤ (indexMask i).1 then false else s.buf.getD (indexMask i).1 0x00#8 &&& (indexMask i).2 != 0x00#8

/-- `BufWriteBit(i, a)`: nothing out of range, else the one bit is set or cleared (R66). -/
def bufWriteBit (s : State) (i : Nat) (a : Bool) : State :=
  if s.cfg.len ≤ (indexMask i).1 then s
  else
    { s with
      buf := s.buf.modify (indexMask i).1 fun x => if a then x ||| (indexMask i).2 else x &&& ~~~(indexMask i).2 }

/-! ### Key space and tables (R34, R36, R68, R69) -/

/-- `PREV[k]`; false where there is no such key (R34, R68). -/
def latch (s : State) (k : Nat) : Bool := s.prev.getD k false

/-- `KEYMAP[k]`; the default `k` of R7 where the table has no such entry (log entry 10). -/
def keyStep (c : Config) (k : Nat) : Nat := (c.keymap.map BitVec.toNat).getD k k

/-- The trigger of voice `v`: `(MIDI_CHANNEL - 1, PITCH[v])` (R99, R176). -/
def triggerOf (c : Config) (v : Nat) : Trigger where
  ch := BitVec.ofNat 4 (c.midiChannel - 1)
  pitch := c.pitch.getD v 0#7

/-- `FLUSH_ORDER[j]`; the default `j` of R7 where the table has no such entry (log entry 10). -/
def presentedIndex (c : Config) (j : Nat) : Nat := c.flushOrder.getD j j

/-! ### Lines and traces (R15, R37, R38) -/

/-- `LED_DATA <- b; emit LED(D0) if b = 0 else emit LED(D1)`. -/
def driveData (b : Bool) (s : State) : State :=
  { s with ledData := b, ledTrace := s.ledTrace ++ [if b then LineEvent.d1 else LineEvent.d0] }

/-- `LED_CLK <- b`, with the event C1 or C0. -/
def driveClk (b : Bool) (s : State) : State :=
  { s with ledClk := b, ledTrace := s.ledTrace ++ [if b then LineEvent.c1 else LineEvent.c0] }

/-- `LED_STROBE <- b`, with the event S1 or S0. -/
def driveStrobe (b : Bool) (s : State) : State :=
  { s with ledStrobe := b, ledTrace := s.ledTrace ++ [if b then LineEvent.s1 else LineEvent.s0] }

/-- `emit NOTE(ch, p)` for each trigger of a list, in its order. -/
def emitNotes (notes : List Trigger) (s : State) : State := { s with noteTrace := s.noteTrace ++ notes }

/-! ### Reset (R230) -/

/-- Reset applied to the block in any state: every piece of its state takes the value of R43. The environment is no part of
the block, so its three fields stay (log entry 15). -/
def applyReset (s : State) : State :=
  { State.resetWith s.cfg with keyin := s.keyin, env := s.env, tick := s.tick }

end Sys2Proof.Machine
end

