-- ==== Sys2Proof/Machine/Operands.lean ====
section
/-! DEFINITION. The operands the operations compute rather than carry (R94). The operands an operation carries are taken from
its fields as they stand (R93), which Decode.lean does. -/

namespace Sys2Proof.Machine

/-- The playhead `p = STEP mod S` (R22, R94). -/
def playhead (s : State) : Nat := s.step.toNat % s.cfg.steps

/-- The LED bit index of step `p` is `p` itself (R94). -/
def ledBit (p : Nat) : Nat := p

/-- The step that INPUT writes for the key of an event: `KEYMAP[EVT.key]` (R94). -/
def inputStep (s : State) : Nat := keyStep s.cfg s.evt.key.toNat

/-- The least key whose sampled state differs from its latch, if there is one (R147). -/
def changedKey (s : State) : Option Nat :=
  (List.range s.cfg.keyCount).find? fun k => (sample s).getD k false != latch s k

/-- The voices whose flag is set at step `st`, in ascending order (R122, R175). -/
def activeVoices (s : State) (st : Nat) : List Nat := (List.range s.cfg.voices).filter fun v => patFlag s v st

/-- The frame of a FLUSH: the data levels it presents, in presentation order (R136). -/
def frameOf (s : State) : List Bool :=
  (List.range (8 * s.cfg.len)).map fun j => bufReadBit s (presentedIndex s.cfg j)

end Sys2Proof.Machine
end

