-- ==== Sys2Proof/Machine/Flags.lean ====
section
/-! DEFINITION. The flags and result latches R, ADV and EVT (R30 to R32): what decides them and the writes to them. -/

namespace Sys2Proof.Machine

/-- The interval of one sixteenth note in milliseconds, `15000 div bpm` by floor division (R160, R162). -/
def intervalMs (bpm : Nat) : Nat := 15000 / bpm

/-- `elapsed = (now - LAST) mod 2^32` (R162, R164). -/
def elapsedMs (s : State) : Count := now s - s.last

/-- A step boundary is due: `elapsed >= interval` (R162). -/
def boundaryDue (s : State) : Bool := decide (intervalMs s.tempo.toNat ≤ (elapsedMs s).toNat)

/-- `R <- b` (R30). -/
def setR (b : Bool) (s : State) : State := { s with r := b }

/-- A step boundary: LAST <- now, STEP <- (STEP + 1) mod 2^32, ADV <- 1 (R162). -/
def takeBoundary (s : State) : State := { s with last := now s, step := s.step + 1#32, adv := true }

/-- No step boundary: ADV <- 0 (R162). -/
def noBoundary (s : State) : State := { s with adv := false }

/-- The event for the transition of key `k` to `pressed` (R32, R147). -/
def keyEventOf (k : Nat) (pressed : Bool) : KeyEvent where
  valid := true
  pressed := pressed
  key := BitVec.ofNat 8 k

/-- `EVT <- {valid: 0, pressed: 0, key: 0}` (R146, R147). -/
def clearEvent (s : State) : State := { s with evt := KeyEvent.absent }

/-- `PREV[k] <- c; EVT <- {valid: 1, pressed: c, key: k}` (R147). -/
def reportKey (k : Nat) (pressed : Bool) (s : State) : State :=
  { s with prev := s.prev.set k pressed, evt := keyEventOf k pressed }

end Sys2Proof.Machine
end

