-- ==== Sys2Proof/Machine/BitDriver.lean ====
section
/-! DEFINITION. The Shift-Register Bit Driver operations BSET (R130), BGET (R131) and FLUSH (R135). -/

namespace Sys2Proof.Machine

/-- BSET, the document's `set_bit(i, value)` (R130). -/
def execBset (i : Nat) (value : Bool) (s : State) : Host.Outcome State Fault Refusal :=
  complete (.running (bufWriteBit s i value))

/-- BGET, the document's `get_bit(i)` (R131). -/
def execBget (i : Nat) (s : State) : Host.Outcome State Fault Refusal :=
  complete (.running (setR (bufReadBit s i) s))

/-- One presentation position of R135: the data level, then the clock pulse. -/
def presentBit (s : State) (b : Bool) : State := driveClk false (driveClk true (driveData b s))

/-- The strobe pulse that commits the shifted-in bits (R135). T_STROBE is a duration and leaves no trace (R138). -/
def pulseStrobe (s : State) : State := driveStrobe false (driveStrobe true s)

/-- The body of FLUSH (R135): the bits in the order FLUSH_ORDER, then the strobe pulse. No line of the loop writes BUF, so the
levels presented are the frame of the state at the start. -/
def flushBody (s : State) : State := pulseStrobe ((frameOf s).foldl presentBit s)

/-- FLUSH, the document's `flush()` (R135). -/
def execFlush (s : State) : Host.Outcome State Fault Refusal := complete (.running (flushBody s))

end Sys2Proof.Machine
end

