-- ==== Sys2Proof/Machine/Keypad.lean ====
section
/-! DEFINITION. The Keypad Scanner operations KRST (R146) and KPOLL (R147). -/

namespace Sys2Proof.Machine

/-- The body of KRST: every latch takes the sampled state, EVT is cleared, no event is produced (R146). -/
def krstBody (s : State) : State := clearEvent { s with prev := sample s }

/-- KRST, the document's keypad `reset()` (R146). -/
def execKrst (s : State) : Host.Outcome State Fault Refusal := complete (.running (krstBody s))

/-- The body of KPOLL: the least changed key is reported and its latch alone updated; with no change EVT is cleared (R147). -/
def kpollBody (s : State) : State :=
  match changedKey s with
  | some k => reportKey k ((sample s).getD k false) s
  | none => clearEvent s

/-- KPOLL, the document's `poll()` (R147). -/
def execKpoll (s : State) : Host.Outcome State Fault Refusal := complete (.running (kpollBody s))

end Sys2Proof.Machine
end

