-- ==== Sys2Proof/Machine/Notes.lean ====
section
/-! DEFINITION. The Note Dispatcher operation NDISP (R175). -/

namespace Sys2Proof.Machine

/-- The body of NDISP: its own range check before any trigger, then one trigger per active voice in ascending order (R175).
Inside the loop `PatRead` cannot fault, so it reads the flag. -/
def ndispBody (st : Nat) (s : State) : Progress :=
  if st < s.cfg.steps then .running (emitNotes ((activeVoices s st).map (triggerOf s.cfg)) s)
  else raise .patternIndex s

/-- NDISP, the document's `dispatch(pattern, step_index)` (R175). -/
def execNdisp (st : Nat) (s : State) : Host.Outcome State Fault Refusal := complete (ndispBody st s)

end Sys2Proof.Machine
end

