-- ==== Sys2Proof/Machine/PatternStore.lean ====
section
/-! DEFINITION. The Pattern Store operations PSET (R120) and PGET (R121). -/

namespace Sys2Proof.Machine

/-- PSET, the document's `set(voice, step, active)` (R120). -/
def execPset (voice st : Nat) (active : Bool) (s : State) : Host.Outcome State Fault Refusal :=
  complete (patWrite s voice st active)

/-- The body of PGET: `R <- PatRead(VC, IDX)` (R121). -/
def pgetBody (voice st : Nat) (s : State) : Progress :=
  match patRead s voice st with
  | .ok b => .running (setR b s)
  | .error cause => raise cause s

/-- PGET, the document's `get(voice, step)` (R121). -/
def execPget (voice st : Nat) (s : State) : Host.Outcome State Fault Refusal := complete (pgetBody voice st s)

end Sys2Proof.Machine
end

