-- ==== Sys2Proof/Machine/Tempo.lean ====
section
/-! DEFINITION. The Tempo Scheduler operation TADV (R162). -/

namespace Sys2Proof.Machine

/-- The body of TADV: the fault TEMPO_ZERO when TEMPO = 0 (R163), else a step boundary if one is due, else ADV <- 0 (R162). -/
def tadvBody (s : State) : Progress :=
  if s.tempo = 0#16 then raise .tempoZero s
  else .running (if boundaryDue s then takeBoundary s else noBoundary s)

/-- TADV, the document's `maybe_advance(now)` (R162). -/
def execTadv (s : State) : Host.Outcome State Fault Refusal := complete (tadvBody s)

end Sys2Proof.Machine
end

