-- ==== Sys2Proof/Machine/ControlLoop.lean ====
section
/-! DEFINITION. The four control-loop operations RENDER (R187), DISPATCH (R188), ADVANCE (R189) and INPUT (R190), defined by
the bodies of the primitives they call; a body that faults abandons the rest (R193). -/

namespace Sys2Proof.Machine

/-- RENDER: set the LED bit of the playhead, then the body of FLUSH (R187). -/
def execRender (s : State) : Host.Outcome State Fault Refusal :=
  complete (.running (flushBody (bufWriteBit s (ledBit (playhead s)) true)))

/-- DISPATCH: the body of NDISP at the playhead, in every iteration (R188). -/
def execDispatch (s : State) : Host.Outcome State Fault Refusal := complete (ndispBody (playhead s) s)

/-- `if ADV = 1: BufWriteBit(old, 0)` (R189). -/
def clearEnded (old : Nat) (s : State) : Progress := .running (if s.adv then bufWriteBit s (ledBit old) false else s)

/-- ADVANCE: the body of TADV; on a step boundary the LED bit of the step that ended is cleared (R189). -/
def execAdvance (s : State) : Host.Outcome State Fault Refusal :=
  complete (andThen (tadvBody s) (clearEnded (playhead s)))

/-- `if EVT.valid = 1: PatWrite(0, KEYMAP[EVT.key], EVT.pressed)` (R190). -/
def applyEvent (s : State) : Progress :=
  if s.evt.valid then patWrite s inputVoice (inputStep s) s.evt.pressed else .running s

/-- INPUT: the body of KPOLL; an event is applied to voice 0 of the pattern (R190). -/
def execInput (s : State) : Host.Outcome State Fault Refusal := complete (applyEvent (kpollBody s))

end Sys2Proof.Machine
end

