-- ==== Sys2Proof/Machine/Dispatch.lean ====
section
/-! DEFINITION. One arm per operation: the meaning each constructor of Instr has (R186, "execute op by its rule"). -/

namespace Sys2Proof.Machine

/-- The meaning of an operation. UPC is moved by the sequencer after it (R186), in Step.lean. -/
def exec (i : Instr) (s : State) : Host.Outcome State Fault Refusal :=
  match i with
  | .pset voice st active => Sys2Proof.Machine.execPset voice st active s
  | .pget voice st => Sys2Proof.Machine.execPget voice st s
  | .bset idx value => Sys2Proof.Machine.execBset idx value s
  | .bget idx => Sys2Proof.Machine.execBget idx s
  | .flush => Sys2Proof.Machine.execFlush s
  | .krst => Sys2Proof.Machine.execKrst s
  | .kpoll => Sys2Proof.Machine.execKpoll s
  | .tadv => Sys2Proof.Machine.execTadv s
  | .ndisp st => Sys2Proof.Machine.execNdisp st s
  | .render => Sys2Proof.Machine.execRender s
  | .dispatch => Sys2Proof.Machine.execDispatch s
  | .advance => Sys2Proof.Machine.execAdvance s
  | .input => Sys2Proof.Machine.execInput s

end Sys2Proof.Machine
end

