-- ==== Sys2Proof/Machine/Sequencer.lean ====
section
/-! DEFINITION. The fetch of R186 and what it does after an operation; placing a word where the next step fetches. -/

namespace Sys2Proof.Machine

/-- What a fetch finds at UPC. -/
inductive Fetched where
  /-- UPC is no index of ROM; R70 says that this cannot be. -/
  | outside
  /-- An illegal word (R97). -/
  | illegal (why : IllegalWord)
  /-- An operation. -/
  | operation (i : Instr)
deriving DecidableEq, Repr

/-- `w <- ROM[UPC]; op <- decode(w)` (R186). -/
def fetch (s : State) : Fetched :=
  if s.upc.toNat < s.cfg.rom.length then
    match decode (currentWord s) with
    | .ok i => .operation i
    | .error why => .illegal why
  else .outside

/-- The last lines of R186: UPC advances after an operation that did not fault; after a fault it stays (R25, R207). -/
def afterOperation (t : State) : State := if t.fault then t else advanceUpc t

/-- The control store `rom` with `w` at index `a`, made longer by words 0 where it has no such index. -/
def placeWord (rom : List Word) (a : Nat) (w : Word) : List Word :=
  (rom ++ List.replicate (a + 1 - rom.length) 0x0000#16).set a w

/-- `s` with the word `w` in ROM at UPC and not halted, so that the next step executes `w` (R186). ROM is configuration, which
no operation can write (R79): this stands for building the block with another control store (R106; log entry 19). -/
def withWordAtUpc (s : State) (w : Word) : State :=
  { s with
    cfg := { s.cfg with rom := placeWord s.cfg.rom s.upc.toNat w }
    fault := false
    fcause := 0#2
    finfo := 0x0000#16 }

end Sys2Proof.Machine
end

