-- ==== Sys2Proof/Machine/Step.lean ====
section
/-! DEFINITION. One sequencer step (R186): the environment moves, then the operation at UPC is fetched and executed. -/

namespace Sys2Proof.Machine

/-- What the sequencer does after an operation answered. -/
def conclude (o : Host.Outcome State Fault Refusal) : Host.Outcome State Fault Refusal :=
  match o with
  | .next t => .next (afterOperation t)
  | .fault r => .fault r
  | .refused r => .refused r

/-- The fetch-execute cycle on the state the environment left. While FAULT = 1 the sequencer takes no step: the block keeps
its state (R209; log entry 7). -/
def cycle (e : State) : Host.Outcome State Fault Refusal :=
  if e.fault then .next e
  else
    match fetch e with
    | .outside => .fault .fetchOutsideControlStore
    | .illegal _ => .next (enterFault .illegalOp e)
    | .operation i => conclude (exec i e)

/-- One step: TIME and KEYIN move (R27, R35; log entry 4), then one fetch-execute cycle (R186). -/
def step (s : State) : Host.Outcome State Fault Refusal := cycle (environment s)

/-- `s` with the instruction whose bits are `w` where `step` fetches next. -/
def State.withFetchWord (s : State) (nbits w : Nat) : State := withWordAtUpc s (tableWord nbits w)

end Sys2Proof.Machine
end

