-- ==== Sys2Proof/Machine/Observation.lean ====
section
/-! DEFINITION. What the outside sees: the frames in LEDTRACE (R136), what the LEDs show, the port `fault` (R207). -/

namespace Sys2Proof.Machine

/-- The frames in a list of line events: at each S1 the data levels in force at the preceding `n` C1 events (R136). `level` is
the level of LED_DATA before the list, `clocked` the levels at the C1 events before it. -/
def framesFrom (n : Nat) (level : Bool) (clocked : List Bool) : List LineEvent → List (List Bool)
  | [] => []
  | .d0 :: es => framesFrom n false clocked es
  | .d1 :: es => framesFrom n true clocked es
  | .c1 :: es => framesFrom n level (clocked ++ [level]) es
  | .c0 :: es => framesFrom n level clocked es
  | .s1 :: es => clocked.drop (clocked.length - n) :: framesFrom n level clocked es
  | .s0 :: es => framesFrom n level clocked es

/-- LEDFRAMES, the frames of all completed FLUSH operations in order (R38, R136). LED_DATA is low at reset (R37). -/
def ledFrames (s : State) : List (List Bool) := framesFrom (8 * s.cfg.len) false [] s.ledTrace

/-- The frame the LEDs show: the last one committed; none before the first strobe, when they show anything (R136, R232). -/
def ledsShow (s : State) : Option (List Bool) := (ledFrames s).getLast?

/-- The output port `fault` shows FAULT (R207). -/
def faultPort (s : State) : Bool := s.fault

end Sys2Proof.Machine
end

