-- ==== Sys2Proof/Safety.lean ====
section
/-! DEFINITION. The terms claims use: the shape every state of a run has, what a safe run is, the canonical control loop and
its one lit step (R192), and the key events of a run (R148). -/

namespace Sys2Proof.Machine

/-! ### The shape of a state -/

/-- Every register file has the size its configuration gives it (R21, R33, R34): "every voice has exactly S flags". -/
abbrev FilesSized (s : State) : Prop :=
  s.pat.length = s.cfg.voices ∧ (∀ row ∈ s.pat, row.length = s.cfg.steps) ∧ s.buf.length = s.cfg.len ∧
  s.prev.length = s.cfg.keyCount

/-- The status group (R28): without a fault it is all 0; with one FCAUSE names a cause and FINFO holds ROM[UPC]. -/
abbrev StatusCoherent (s : State) : Prop :=
  (s.fault = false → s.fcause = 0#2 ∧ s.finfo = 0x0000#16) ∧ (s.fault = true → s.fcause ≠ 0#2 ∧ s.finfo = currentWord s)

/-- The event latch (R32, R68): a valid event names a key below KEY_COUNT; without an event every field is 0. -/
abbrev EventCoherent (s : State) : Prop :=
  (s.evt.valid = true → s.evt.key.toNat < s.cfg.keyCount) ∧ (s.evt.valid = false → s.evt = KeyEvent.absent)

/-- Between two operations the clock and strobe lines are low (R37), and LEDTRACE holds whole flushes only, each of
`24*LEN + 2` events (R135). -/
abbrev LinesAtRest (s : State) : Prop :=
  s.ledClk = false ∧ s.ledStrobe = false ∧ s.ledTrace.length % (24 * s.cfg.len + 2) = 0

/-- The invariant of every run: the configuration's sizes, the files' sizes, UPC an index of ROM (R70), TEMPO at its reset value
(R26), and the three above. -/
abbrev State.Wf (s : State) : Prop :=
  s.cfg.Sized ∧ FilesSized s ∧ s.upc.toNat < s.cfg.rom.length ∧ s.tempo = s.cfg.bpm ∧ StatusCoherent s ∧
  EventCoherent s ∧ LinesAtRest s

/-- A state of a correct run: no fault has occurred (R209: "a model treats FAULT = 1 as having gone wrong"). -/
abbrev Safe (s : State) : Prop := s.fault = false

/-! ### The hardware as built -/

/-- A well-formed configuration with the canonical control store (R8, R105). -/
abbrev Canonical (c : Config) : Prop := c.WellFormed ∧ c.rom = canonicalRom ∧ c.loopStart = canonicalLoopStart

/-- The bits of BUF are all 0. -/
abbrev Dark (s : State) : Prop := ∀ j < 8 * s.cfg.len, bufReadBit s j = false

/-- Exactly one bit of BUF is 1, at the playhead (R192). -/
abbrev LitAtPlayhead (s : State) : Prop := ∀ j < 8 * s.cfg.len, bufReadBit s j = decide (j = playhead s)

/-- Every committed frame has exactly one 1 (R192). -/
abbrev FramesOneLit (s : State) : Prop := ∀ f ∈ ledFrames s, f.count true = 1

/-- One lit step, at each index of the canonical control store (R192): dark before the boot KRST; dark or lit at the playhead
after it; lit at the playhead between RENDER and ADVANCE; and every frame so far has exactly one 1. -/
abbrev OneLit (s : State) : Prop :=
  (s.upc = 0#8 → Dark s) ∧ (s.upc = 2#8 ∨ s.upc = 3#8 → LitAtPlayhead s) ∧ (Dark s ∨ LitAtPlayhead s) ∧ FramesOneLit s

/-! ### Runs of operations under any inputs -/

/-- One operation with the inputs the environment gives it: the value of TIME and the pressed vector (R9). -/
structure Moment where
  instr : Instr
  time : Count
  keyin : List Bool
deriving DecidableEq, Repr

/-- The state with the inputs of a moment. -/
def withInputs (s : State) (m : Moment) : State := { s with time := m.time, keyin := m.keyin }

/-- The state after the operation of a moment; the state before it, should it have none. -/
def after (s : State) (m : Moment) : State :=
  match exec m.instr (withInputs s m) with
  | .next t => t
  | .fault _ => s
  | .refused _ => s

/-- The operation performs a KPOLL, alone or inside INPUT (R24). -/
def polls : Instr → Bool
  | .pset _ _ _ => false
  | .pget _ _ => false
  | .bset _ _ => false
  | .bget _ => false
  | .flush => false
  | .krst => false
  | .kpoll => true
  | .tadv => false
  | .ndisp _ => false
  | .render => false
  | .dispatch => false
  | .advance => false
  | .input => true

/-- The transitions reported for key `k` over a run of operations: for each KPOLL or INPUT that leaves a valid event for `k`,
whether it was a press (R148). -/
def transitionsOf (k : Nat) (s : State) : List Moment → List Bool
  | [] => []
  | m :: rest =>
    let t := after s m
    if polls m.instr && t.evt.valid && t.evt.key.toNat == k then t.evt.pressed :: transitionsOf k t rest
    else transitionsOf k t rest

/-- A list of transitions alternates, starting with the opposite of `b` (R148). -/
def Alternates (b : Bool) : List Bool → Prop
  | [] => True
  | x :: rest => x = !b ∧ Alternates x rest

end Sys2Proof.Machine
end

