-- ==== Sys2Proof/Certificates/Slice0/Obligations.lean ====
section
/-! DEFINITION. The statements about the machine, from the numbered rules of spec/. Each speaks of every state that meets its
hypotheses and so of every configuration, since the configuration is a field of State. A next state is given as the old state
with the fields named that may differ, which is the instruction's frame. -/

open Sys2Proof Sys2Proof.Machine

/-! ### Encoding -/

/-- R96: a word that selects a row decodes to that row's operation with the operands of its fields, a word that selects no row
is illegal, decode of encode is the operation for every operation with operands in range, and encode of decode is the word for
every legal word. -/
def Obligations.DecodeAndEncodeAreInverse : Prop :=
  (∀ w : Word, ∀ row ∈ opcodeMap, w &&& row.mask = row.pattern → decode w = .ok (operandsOf row.mnemonic w)) ∧
  (∀ w : Word, (∀ row ∈ opcodeMap, w &&& row.mask ≠ row.pattern) → ∃ why, decode w = .error why) ∧
  (∀ i : Instr, i.WellFormed → decode (encode i) = .ok i) ∧
  (∀ (w : Word) (i : Instr), decode w = .ok i → i.WellFormed ∧ encode i = w)

/-- R95 and R93: the thirteen rows of the opcode map by their match and mask, each with the operation and the operands it
stands for. -/
def Obligations.OpcodeMapRowsDecode : Prop :=
  ∀ w : Word,
    (w &&& 0xF000#16 = 0x1000#16 →
      decode w = .ok (.pset ((w.toNat / 256) % 8) (w.toNat % 256) (decide ((w.toNat / 2048) % 2 = 1)))) ∧
    (w &&& 0xF800#16 = 0x2000#16 → decode w = .ok (.pget ((w.toNat / 256) % 8) (w.toNat % 256))) ∧
    (w &&& 0xF700#16 = 0x3000#16 → decode w = .ok (.bset (w.toNat % 256) (decide ((w.toNat / 2048) % 2 = 1)))) ∧
    (w &&& 0xFF00#16 = 0x4000#16 → decode w = .ok (.bget (w.toNat % 256))) ∧
    (w = 0x5000#16 → decode w = .ok .flush) ∧
    (w = 0x6000#16 → decode w = .ok .krst) ∧
    (w = 0x7000#16 → decode w = .ok .kpoll) ∧
    (w = 0x8000#16 → decode w = .ok .tadv) ∧
    (w &&& 0xFF00#16 = 0x9000#16 → decode w = .ok (.ndisp (w.toNat % 256))) ∧
    (w = 0xA000#16 → decode w = .ok .render) ∧
    (w = 0xB000#16 → decode w = .ok .dispatch) ∧
    (w = 0xC000#16 → decode w = .ok .advance) ∧
    (w = 0xD000#16 → decode w = .ok .input)

/-- R97: a word is illegal exactly when its opcode is reserved, which is case (a), or a field its format requires to be zero is
not, which is case (b); a fetch of an illegal word enters the fault ILLEGAL_OP with nothing else changed; and a well-formed
configuration has no illegal word in ROM. -/
def Obligations.IllegalWordsFault : Prop :=
  (∀ w : Word,
    (decode w = .error .reservedOpcode ↔ opField w = 0x0#4 ∨ opField w = 0xE#4 ∨ opField w = 0xF#4) ∧
    (decode w = .error .nonzeroUnusedField ↔
      (opField w = 0x2#4 ∧ aField w = true) ∨ (opField w = 0x3#4 ∧ vcField w ≠ 0) ∨
      ((opField w = 0x4#4 ∨ opField w = 0x9#4) ∧ (aField w = true ∨ vcField w ≠ 0)) ∨
      ((0x5#4 ≤ opField w ∧ opField w ≤ 0x8#4 ∨ 0xA#4 ≤ opField w ∧ opField w ≤ 0xD#4) ∧
        (aField w = true ∨ vcField w ≠ 0 ∨ idxField w ≠ 0)))) ∧
  (∀ (e : State) (w : Word) (why : IllegalWord), e.fault = false → e.cfg.rom[e.upc.toNat]? = some w →
    decode w = .error why → cycle e = .next { e with fault := true, fcause := 2#2, finfo := w }) ∧
  (∀ c : Config, c.WellFormed → ∀ w ∈ c.rom, ∃ i, decode w = .ok i)

/-- R109: the words the spec disassembles. The spec derives it (R109, "Examples"). -/
def Obligations.SpecWordsDecode : Prop :=
  decode 0x1803#16 = .ok (.pset 0 3 true) ∧ decode 0x1003#16 = .ok (.pset 0 3 false) ∧
  decode 0x2003#16 = .ok (.pget 0 3) ∧ decode 0x3809#16 = .ok (.bset 9 true) ∧ decode 0x3009#16 = .ok (.bset 9 false) ∧
  decode 0x4009#16 = .ok (.bget 9) ∧ decode 0x40C8#16 = .ok (.bget 200) ∧ decode 0x9003#16 = .ok (.ndisp 3) ∧
  decode 0x1D10#16 = .ok (.pset 5 16 true) ∧ decode 0x2803#16 = .error .nonzeroUnusedField ∧
  decode 0x0000#16 = .error .reservedOpcode

/-! ### The sequencer -/

/-- A step runs the decoded instruction: the environment moves TIME and KEYIN (the model's choice, log entry 4), then `exec`
runs the operation at UPC, then UPC advances unless the operation faulted (R186). -/
def Obligations.StepRunsDecodedInstruction : Prop :=
  ∀ (s : State) (w : Word) (i : Instr), s.fault = false → s.cfg.rom[s.upc.toNat]? = some w → decode w = .ok i →
    step s =
      match exec i (environment s) with
      | .next t => .next (afterOperation t)
      | .fault r => .fault r
      | .refused r => .refused r

/-- R27 and R35: before the operation TIME goes forward by the milliseconds that pass, with 32-bit wrap, and KEYIN[k] becomes 1
exactly when the line level of key `k` is VALUE_WHEN_PRESSED; nothing else of the block moves. That this happens once before each
step, by the next move the state names or else by free values, is the model's choice (log entries 4 and 6). -/
def Obligations.EnvironmentMovesInputs : Prop :=
  ∀ (s : State) (move : EnvMove) (rest : List EnvMove), s.env = move :: rest → move.levels.length = s.cfg.keyCount →
    environment s = { s with
      time := BitVec.ofNat 32 (s.time.toNat + move.elapsed.toNat), keyin := (environment s).keyin, env := rest,
      tick := s.tick + 1 } ∧
    (environment s).keyin.length = s.cfg.keyCount ∧
    ∀ k < s.cfg.keyCount,
      ((environment s).keyin.getD k false = true ↔ move.levels[k]? = some s.cfg.valueWhenPressed)

/-- R186, the fetch-execute cycle on the state the environment left: no step while FAULT = 1; ILLEGAL_OP for an illegal word;
else the operation, and then UPC + 1 or LOOP_START, or the same UPC after a fault. -/
def Obligations.FetchExecuteCycle : Prop :=
  (∀ e : State, e.fault = true → cycle e = .next e) ∧
  (∀ (e : State) (w : Word), e.fault = false → e.cfg.rom[e.upc.toNat]? = some w →
    (∀ why, decode w = .error why → cycle e = .next { e with fault := true, fcause := 2#2, finfo := w }) ∧
    (∀ i, decode w = .ok i →
      ∃ t, exec i e = .next t ∧ t.upc = e.upc ∧
        cycle e = .next
          (if t.fault = true then t
           else if e.upc.toNat + 1 < e.cfg.rom.length then { t with upc := BitVec.ofNat 8 (e.upc.toNat + 1) }
           else { t with upc := BitVec.ofNat 8 e.cfg.loopStart })))

/-- R70 says that a fetch is never out of range. In a state that breaks this, which no run reaches, the model stops with its one
fault (the model's choice, log entry 8). -/
def Obligations.FetchOutsideRomStops : Prop :=
  ∀ s : State, s.fault = false → s.cfg.rom[s.upc.toNat]? = none → step s = .fault .fetchOutsideControlStore

/-- R209: a halted block keeps every piece of its state, TIME alone goes on counting. That a step of a halted block is a next
state, in which only the inputs moved, is the model's reading (log entry 7). -/
def Obligations.HaltedBlockKeepsState : Prop :=
  ∀ s : State, s.fault = true →
    ∃ t, step s = .next t ∧ t = { s with time := t.time, keyin := t.keyin, env := t.env, tick := t.tick } ∧
      t.time = s.time + (nextMove s).elapsed ∧ ledsShow t = ledsShow s

/-- R213 and R28: FCAUSE and FINFO are written at most once per reset; once FAULT is set no number of steps changes the status
group or UPC. -/
def Obligations.StatusGroupIsSticky : Prop :=
  ∀ (n : Nat) (s : State), s.fault = true →
    ∃ t, Sys2Proof.core.run n s = .next t ∧ t.fault = true ∧ t.fcause = s.fcause ∧ t.finfo = s.finfo ∧ t.upc = s.upc

/-- R79: no run changes the control store, nor any other part of the configuration, so every fetch sees the same word at the
same index for the whole run. -/
def Obligations.ControlStoreIsNeverWritten : Prop :=
  ∀ (n : Nat) (s t : State), Sys2Proof.core.run n s = .next t → t.cfg = s.cfg

/-! ### Faults -/

/-- R207: fault entry sets FAULT, FCAUSE (1, 2 or 3) and FINFO = ROM[UPC], abandons the rest of the operation, keeps every other
piece of state, and UPC is not advanced after it; the port `fault` shows FAULT. -/
def Obligations.FaultEntryHaltsInPlace : Prop :=
  ∀ (cause : FaultCause) (rest : State → Progress) (s : State),
    let t := { s with
      fault := true
      fcause := match cause with
        | .patternIndex => 1#2
        | .illegalOp => 2#2
        | .tempoZero => 3#2
      finfo := s.cfg.rom.getD s.upc.toNat 0x0000#16 }
    complete (andThen (raise cause s) rest) = .next t ∧ conclude (complete (andThen (raise cause s) rest)) = .next t ∧
      faultPort t = t.fault

/-- R210: the fault PATTERN_INDEX of PSET, PGET, NDISP and INPUT; the faulting access changes nothing in PAT, and for PGET
nothing in R; DISPATCH cannot raise it; and FINFO decodes to the operation that faulted. -/
def Obligations.PatternIndexFaults : Prop :=
  (∀ (s : State) (v st : Nat) (a : Bool), s.cfg.voices ≤ v ∨ s.cfg.steps ≤ st →
    exec (.pset v st a) s = .next { s with fault := true, fcause := 1#2, finfo := currentWord s } ∧
    exec (.pget v st) s = .next { s with fault := true, fcause := 1#2, finfo := currentWord s }) ∧
  (∀ (s : State) (st : Nat), s.cfg.steps ≤ st →
    exec (.ndisp st) s = .next { s with fault := true, fcause := 1#2, finfo := currentWord s }) ∧
  (∀ s u : State, exec .kpoll s = .next u → u.evt.valid = true → s.cfg.steps ≤ keyStep s.cfg u.evt.key.toNat →
    exec .input s = .next { u with fault := true, fcause := 1#2, finfo := currentWord s } ∧ u.pat = s.pat) ∧
  (∀ s : State, s.cfg.Sized → ∃ t, exec .dispatch s = .next t ∧ t.fault = s.fault ∧ t.fcause = s.fcause) ∧
  (∀ (e t : State) (w : Word) (i : Instr), e.fault = false → e.cfg.rom[e.upc.toNat]? = some w → decode w = .ok i →
    cycle e = .next t → t.fault = true → decode t.finfo = .ok i)

/-- R163: TADV with TEMPO = 0 raises TEMPO_ZERO and changes nothing else, and so does ADVANCE, through the body of TADV; TEMPO
resets to BPM, no operation writes it, and so a well-formed configuration excludes the fault. -/
def Obligations.TempoZeroFaults : Prop :=
  (∀ s : State, s.tempo = 0#16 →
    exec .tadv s = .next { s with fault := true, fcause := 3#2, finfo := currentWord s } ∧
    exec .advance s = .next { s with fault := true, fcause := 3#2, finfo := currentWord s }) ∧
  (∀ c : Config, (State.resetWith c).tempo = c.bpm) ∧
  (∀ (i : Instr) (s t : State), exec i s = .next t → t.tempo = s.tempo) ∧
  (∀ s : State, s.cfg.WellFormed → s.tempo = s.cfg.bpm → s.tempo ≠ 0#16)

/-- R193: RENDER and DISPATCH cannot fault; a faulting ADVANCE has changed nothing; a faulting INPUT has kept what its KPOLL did
and no more; NDISP with a step out of range faults before any trigger; FINFO is the word at UPC. -/
def Obligations.CompositeFaultsKeepEarlierLines : Prop :=
  (∀ s : State, s.cfg.Sized →
    (∃ t, exec .render s = .next t ∧ t.fault = s.fault) ∧ (∃ t, exec .dispatch s = .next t ∧ t.fault = s.fault)) ∧
  (∀ s t : State, s.fault = false → exec .advance s = .next t → t.fault = true →
    t = { s with fault := true, fcause := 3#2, finfo := currentWord s }) ∧
  (∀ s t : State, s.fault = false → s.cfg.Sized → exec .input s = .next t → t.fault = true →
    ∃ u, exec .kpoll s = .next u ∧ u.fault = false ∧
      t = { u with fault := true, fcause := 1#2, finfo := currentWord s }) ∧
  (∀ (s t : State) (st : Nat), s.cfg.steps ≤ st → exec (.ndisp st) s = .next t →
    t.fault = true ∧ t.finfo = currentWord s ∧ t.noteTrace = s.noteTrace)

/-- R208: faults are precise: an operation other than INPUT that faults, or an illegal word, has changed nothing but the status
group, and a faulting INPUT nothing but that and what its KPOLL part did. -/
def Obligations.FaultsArePrecise : Prop :=
  (∀ (i : Instr) (s t : State), i ≠ .input → s.fault = false → exec i s = .next t → t.fault = true →
    t = { s with fault := true, fcause := t.fcause, finfo := t.finfo } ∧ t.fcause ≠ 0#2 ∧ t.finfo = currentWord s) ∧
  (∀ s t : State, s.fault = false → exec .input s = .next t → t.fault = true →
    ∃ u, exec .kpoll s = .next u ∧ t = { u with fault := true, fcause := t.fcause, finfo := t.finfo }) ∧
  (∀ (e t : State) (w : Word) (why : IllegalWord), e.fault = false → e.cfg.rom[e.upc.toNat]? = some w →
    decode w = .error why → cycle e = .next t → t = { e with fault := true, fcause := t.fcause, finfo := t.finfo })

/-! ### Pattern Store -/

/-- R120: PSET in range writes the one flag and nothing else, out of range it faults with PAT unchanged; its word. -/
def Obligations.PsetWritesOneFlag : Prop :=
  (∀ (s : State) (v st : Nat) (a : Bool), FilesSized s → v < s.cfg.voices → st < s.cfg.steps →
    ∃ t, exec (.pset v st a) s = .next t ∧ t = { s with pat := t.pat } ∧ FilesSized t ∧
      ∀ v' st', patFlag t v' st' = if v' = v ∧ st' = st then a else patFlag s v' st') ∧
  (∀ (s : State) (v st : Nat) (a : Bool), ¬(v < s.cfg.voices ∧ st < s.cfg.steps) →
    exec (.pset v st a) s = .next { s with fault := true, fcause := 1#2, finfo := currentWord s }) ∧
  (∀ (v st : Nat) (a : Bool), v < 8 → st < 256 →
    (encode (.pset v st a)).toNat = 0x1000 + a.toNat * 2048 + v * 256 + st)

/-- R121: PGET in range copies the flag to R and changes nothing else, out of range it faults with R unchanged; its word. -/
def Obligations.PgetReadsFlagIntoR : Prop :=
  (∀ (s : State) (v st : Nat), v < s.cfg.voices → st < s.cfg.steps →
    exec (.pget v st) s = .next { s with r := patFlag s v st }) ∧
  (∀ (s : State) (v st : Nat), ¬(v < s.cfg.voices ∧ st < s.cfg.steps) →
    exec (.pget v st) s = .next { s with fault := true, fcause := 1#2, finfo := currentWord s }) ∧
  (∀ v st : Nat, v < 8 → st < 256 → (encode (.pget v st)).toNat = 0x2000 + v * 256 + st)

/-- The pattern round trip: after PSET a PGET of the same flag sets R to the value written, whatever PAT held, and a PGET of
any other flag gives the same R as before the PSET. The spec derives it (R123, "The read/write round trip"). -/
def Obligations.PatternRoundTrip : Prop :=
  ∀ (s : State) (v st v' st' : Nat) (a : Bool), FilesSized s → v < s.cfg.voices → st < s.cfg.steps →
    v' < s.cfg.voices → st' < s.cfg.steps →
    ∃ t u w, exec (.pset v st a) s = .next t ∧ exec (.pget v' st') t = .next u ∧ exec (.pget v' st') s = .next w ∧
      ((v', st') = (v, st) → u.r = a) ∧ ((v', st') ≠ (v, st) → u.r = w.r)

/-! ### Bit Driver -/

/-- R130: BSET of an index below 8*LEN sets or clears the one bit and nothing else; any other index changes nothing; it never
faults; its word. -/
def Obligations.BsetWritesOneBit : Prop :=
  (∀ (s : State) (i : Nat) (a : Bool), FilesSized s → i < 8 * s.cfg.len →
    ∃ t, exec (.bset i a) s = .next t ∧ t = { s with buf := t.buf } ∧ FilesSized t ∧
      ∀ j, bufReadBit t j = if j = i then a else bufReadBit s j) ∧
  (∀ (s : State) (i : Nat) (a : Bool), 8 * s.cfg.len ≤ i → exec (.bset i a) s = .next s) ∧
  (∀ (i : Nat) (a : Bool), i < 256 → (encode (.bset i a)).toNat = 0x3000 + a.toNat * 2048 + i)

/-- R131: BGET copies bit `i mod 8` of byte `i div 8` of BUF to R, and 0 out of range, and changes nothing else; it never
faults; its word. -/
def Obligations.BgetReadsBitIntoR : Prop :=
  (∀ (s : State) (i : Nat), i < 8 * s.cfg.len →
    exec (.bget i) s = .next { s with r := (s.buf.getD (i / 8) 0x00#8).getLsbD (i % 8) }) ∧
  (∀ (s : State) (i : Nat), 8 * s.cfg.len ≤ i → exec (.bget i) s = .next { s with r := false }) ∧
  (∀ i : Nat, i < 256 → (encode (.bget i)).toNat = 0x4000 + i)

/-- The bit round trip: in range BGET after BSET reads the bit written, every other index reads as before the BSET, and an
index out of range reads 0 whatever was written. The spec derives it (R132, "The bit round trip"). -/
def Obligations.BitRoundTrip : Prop :=
  (∀ (s : State) (i j : Nat) (b : Bool), FilesSized s → i < 8 * s.cfg.len →
    ∃ t u w, exec (.bset i b) s = .next t ∧ exec (.bget j) t = .next u ∧ exec (.bget j) s = .next w ∧
      u.r = if j = i then b else w.r) ∧
  (∀ (s : State) (i : Nat) (b : Bool), 8 * s.cfg.len ≤ i →
    ∃ t u, exec (.bset i b) s = .next t ∧ exec (.bget i) t = .next u ∧ u.r = false)

/-- R64: index_mask gives byte `i div 8` and an 8-bit mask with exactly the bit `i mod 8` set, and a bit of BUF in range is that
bit of that byte, so lower indices are in lower bytes and less significant positions. -/
def Obligations.BitIndexMapping : Prop :=
  (∀ i : Nat, (indexMask i).1 = i / 8 ∧ ∀ j, (indexMask i).2.getLsbD j = decide (j = i % 8)) ∧
  (∀ (s : State) (i : Nat), i < 8 * s.cfg.len →
    bufReadBit s i = (s.buf.getD (i / 8) 0x00#8).getLsbD (i % 8))

/-- R135: FLUSH drives each bit of BUF in the order FLUSH_ORDER with one clock pulse each and then pulses the strobe: the events
appended to LEDTRACE, their number, the lines afterwards; nothing else changes. -/
def Obligations.FlushPresentsBufThenStrobes : Prop :=
  (∀ s : State,
    ∃ t, exec .flush s = .next t ∧
      t = { s with
        ledData := t.ledData, ledClk := t.ledClk, ledStrobe := t.ledStrobe, ledTrace := t.ledTrace } ∧
      t.ledTrace = s.ledTrace ++
        ((List.range (8 * s.cfg.len)).flatMap fun j =>
          [if bufReadBit s (presentedIndex s.cfg j) then .d1 else .d0, .c1, .c0]) ++ [.s1, .s0] ∧
      t.ledTrace.length = s.ledTrace.length + (3 * 8 * s.cfg.len + 2) ∧ t.ledStrobe = false ∧
      (1 ≤ s.cfg.len → t.ledClk = false ∧ t.ledData = bufReadBit s (presentedIndex s.cfg (8 * s.cfg.len - 1)))) ∧
  encode .flush = 0x5000#16

/-- Replay: two FLUSH operations with no write to BUF between them append the same `24*LEN + 2` events and the same frame.
The spec derives it (R137, "Replay"). -/
def Obligations.FlushReplays : Prop :=
  ∀ s : State, ∃ t u events frame, exec .flush s = .next t ∧ exec .flush t = .next u ∧
    t.ledTrace = s.ledTrace ++ events ∧ u.ledTrace = t.ledTrace ++ events ∧ events.length = 24 * s.cfg.len + 2 ∧
    ledFrames t = ledFrames s ++ [frame] ∧ ledFrames u = ledFrames t ++ [frame]

/-- Frames: a FLUSH appends exactly one frame to LEDFRAMES, computed from LEDTRACE: the data levels it presents, in
presentation order; the LEDs then show it. The spec derives it (R136, "Frames"). -/
def Obligations.FlushCommitsOneFrame : Prop :=
  ∀ s : State, ∃ t, exec .flush s = .next t ∧
    ledFrames t = ledFrames s ++ [(List.range (8 * s.cfg.len)).map fun j => bufReadBit s (presentedIndex s.cfg j)] ∧
    ledsShow t = some ((List.range (8 * s.cfg.len)).map fun j => bufReadBit s (presentedIndex s.cfg j))

/-! ### Keypad Scanner -/

/-- R146: KRST loads every latch from the pressed vector, clears EVT, produces no event and changes nothing else. -/
def Obligations.KrstAbsorbsSwitches : Prop :=
  (∀ s : State,
    ∃ t, exec .krst s = .next t ∧ t = { s with prev := t.prev, evt := KeyEvent.absent } ∧
      t.prev.length = s.cfg.keyCount ∧ ∀ k < s.cfg.keyCount, latch t k = s.keyin.getD k false) ∧
  encode .krst = 0x6000#16

/-- R147: KPOLL reports the least key whose sampled state differs from its latch, with that state as the transition, and updates
that latch alone; with no such key EVT is all 0; nothing else changes. -/
def Obligations.KpollReportsLeastChangedKey : Prop :=
  (∀ s : State, FilesSized s → s.cfg.keyCount ≤ 256 →
    ∃ t, exec .kpoll s = .next t ∧ t = { s with prev := t.prev, evt := t.evt } ∧ FilesSized t ∧
      ((∀ k < s.cfg.keyCount, s.keyin.getD k false = latch s k) → t.evt = ⟨false, false, 0#8⟩ ∧ t.prev = s.prev) ∧
      (∀ k < s.cfg.keyCount, s.keyin.getD k false ≠ latch s k →
        (∀ j < k, s.keyin.getD j false = latch s j) →
          t.evt.valid = true ∧ t.evt.pressed = s.keyin.getD k false ∧ t.evt.key.toNat = k ∧
          ∀ j, latch t j = if j = k then s.keyin.getD k false else latch s j)) ∧
  encode .kpoll = 0x7000#16

/-- Alternation: over any run of operations without a KRST, under any inputs, the transitions reported for a key alternate,
starting with the opposite of its latch at the start. The spec derives it (R148, "Alternation"). -/
def Obligations.KeyTransitionsAlternate : Prop :=
  ∀ (s : State) (run : List Moment), FilesSized s → s.cfg.keyCount ≤ 256 → (∀ m ∈ run, m.instr ≠ .krst) →
    ∀ k < s.cfg.keyCount, Alternates (latch s k) (transitionsOf k s run)

/-! ### Tempo Scheduler -/

/-- R160: the interval is `(60000 div bpm) div 4 = 15000 div bpm`, lies in 0 to 15000, and is 250 at 60 and 125 at 120. -/
def Obligations.IntervalFormula : Prop :=
  (∀ bpm : Nat, 1 ≤ bpm → intervalMs bpm = 60000 / bpm / 4 ∧ intervalMs bpm = 15000 / bpm ∧ intervalMs bpm ≤ 15000) ∧
  intervalMs 60 = 250 ∧ intervalMs 120 = 125

/-- R162: TADV with TEMPO not 0: a step boundary when the elapsed time has reached the interval, else ADV is cleared; nothing
else changes; with TEMPO = 0 it faults. -/
def Obligations.TadvTakesDueBoundary : Prop :=
  (∀ s : State, s.tempo ≠ 0#16 →
    (15000 / s.tempo.toNat ≤ (s.time - s.last).toNat →
      exec .tadv s = .next { s with last := s.time, step := s.step + 1#32, adv := true }) ∧
    ((s.time - s.last).toNat < 15000 / s.tempo.toNat → exec .tadv s = .next { s with adv := false })) ∧
  (∀ s : State, s.tempo = 0#16 →
    exec .tadv s = .next { s with fault := true, fcause := 3#2, finfo := currentWord s }) ∧
  encode .tadv = 0x8000#16

/-- R164: where fewer than 2^32 milliseconds have passed since the last boundary, TADV finds a boundary exactly when the true time
has reached `last + interval`, also when TIME has wrapped. -/
def Obligations.ModularComparisonIsExact : Prop :=
  ∀ (s : State) (last now : Nat), s.tempo ≠ 0#16 → s.last = BitVec.ofNat 32 last → s.time = BitVec.ofNat 32 now →
    last ≤ now → now < last + 2 ^ 32 →
    ∃ t, exec .tadv s = .next t ∧ (t.adv = true ↔ last + 15000 / s.tempo.toNat ≤ now)

/-- Interval zero: with TEMPO above 15000 every ADVANCE is a step boundary, also when TIME has not moved. The spec derives
it (R247, "Interval zero"). -/
def Obligations.IntervalZeroAlwaysAdvances : Prop :=
  ∀ s : State, 15000 < s.tempo.toNat →
    ∃ t, exec .advance s = .next t ∧ t.adv = true ∧ t.step = s.step + 1#32 ∧ t.last = s.time

/-- The playhead cycles: when S divides 2^32 a step boundary moves it to the next step modulo S, also when STEP wraps. -/
def Obligations.PlayheadCyclesThroughSteps : Prop :=
  ∀ s t : State, 1 ≤ s.cfg.steps → s.cfg.steps ∣ 2 ^ 32 → exec .tadv s = .next t → t.fault = false → t.adv = true →
    playhead t = (playhead s + 1) % s.cfg.steps

/-! ### Note Dispatcher -/

/-- R175: NDISP of a step in range emits one trigger for each voice whose flag is set there, in ascending voice order, with the
channel MIDI_CHANNEL - 1 and the voice's pitch, and changes nothing else; out of range it faults with no trigger. -/
def Obligations.NdispEmitsActiveVoices : Prop :=
  (∀ (s : State) (st : Nat), st < s.cfg.steps →
    exec (.ndisp st) s = .next { s with
      noteTrace := s.noteTrace ++ (List.range s.cfg.voices).flatMap fun v =>
        if patFlag s v st then [⟨BitVec.ofNat 4 (s.cfg.midiChannel - 1), s.cfg.pitch.getD v 0#7⟩] else [] }) ∧
  (∀ (s : State) (st : Nat), s.cfg.steps ≤ st →
    exec (.ndisp st) s = .next { s with fault := true, fcause := 1#2, finfo := currentWord s }) ∧
  (∀ st : Nat, st < 256 → (encode (.ndisp st)).toNat = 0x9000 + st)

/-- The dispatcher scenario, for any one flag: with the flag of voice `v` at step `p` set and no other, a dispatch of step
`q` emits exactly one trigger, of that voice, when `q = p`, and none otherwise. The spec derives it for one flag (R179). -/
def Obligations.LoneFlagEmitsOneTrigger : Prop :=
  ∀ (s : State) (v p q : Nat), v < s.cfg.voices → p < s.cfg.steps → q < s.cfg.steps →
    (∀ v' q', patFlag s v' q' = decide (v' = v ∧ q' = p)) →
    ∃ t, exec (.ndisp q) s = .next t ∧
      t.noteTrace = s.noteTrace ++ (if q = p then [triggerOf s.cfg v] else [])

/-! ### Control Loop -/

/-- R187: RENDER sets the LED bit of the playhead and flushes: the bits of BUF afterwards, the events and the one frame appended;
it clears no bit, cannot fault and changes nothing else. -/
def Obligations.RenderLightsPlayhead : Prop :=
  (∀ s : State, FilesSized s → 1 ≤ s.cfg.len →
    ∃ t, exec .render s = .next t ∧
      t = { s with
        buf := t.buf, ledData := t.ledData, ledClk := false, ledStrobe := false, ledTrace := t.ledTrace } ∧
      FilesSized t ∧
      (∀ j, bufReadBit t j = if j = s.step.toNat % s.cfg.steps ∧ j < 8 * s.cfg.len then true else bufReadBit s j) ∧
      t.ledTrace = s.ledTrace ++
        ((List.range (8 * s.cfg.len)).flatMap fun j =>
          [if bufReadBit t (presentedIndex s.cfg j) then .d1 else .d0, .c1, .c0]) ++ [.s1, .s0] ∧
      t.ledTrace.length = s.ledTrace.length + (24 * s.cfg.len + 2) ∧
      ledFrames t = ledFrames s ++ [(List.range (8 * s.cfg.len)).map fun j => bufReadBit t (presentedIndex s.cfg j)]) ∧
  encode .render = 0xA000#16

/-- R188: DISPATCH emits the triggers of the voices active at the playhead, and nothing else changes, so that a second DISPATCH
at the same playhead emits the same triggers again; it cannot fault. -/
def Obligations.DispatchRepeatsTriggers : Prop :=
  (∀ s : State, 1 ≤ s.cfg.steps →
    ∃ t u notes, exec .dispatch s = .next t ∧ exec .dispatch t = .next u ∧
      notes = ((List.range s.cfg.voices).filter fun v => patFlag s v (s.step.toNat % s.cfg.steps)).map
        (fun v => ⟨BitVec.ofNat 4 (s.cfg.midiChannel - 1), s.cfg.pitch.getD v 0#7⟩) ∧
      t = { s with noteTrace := s.noteTrace ++ notes } ∧ u = { s with noteTrace := s.noteTrace ++ notes ++ notes }) ∧
  encode .dispatch = 0xB000#16

/-- R189: ADVANCE runs TADV and, on a step boundary, clears the LED bit of the step that ended; without one only ADV is written;
with TEMPO = 0 it faults with nothing changed. No line moves. -/
def Obligations.AdvanceClearsEndedStep : Prop :=
  (∀ s : State, FilesSized s → s.tempo ≠ 0#16 →
    (15000 / s.tempo.toNat ≤ (s.time - s.last).toNat →
      ∃ t, exec .advance s = .next t ∧
        t = { s with buf := t.buf, last := s.time, step := s.step + 1#32, adv := true } ∧ FilesSized t ∧
        ∀ j, bufReadBit t j = if j = s.step.toNat % s.cfg.steps then false else bufReadBit s j) ∧
    ((s.time - s.last).toNat < 15000 / s.tempo.toNat → exec .advance s = .next { s with adv := false })) ∧
  (∀ s : State, s.tempo = 0#16 →
    exec .advance s = .next { s with fault := true, fcause := 3#2, finfo := currentWord s }) ∧
  encode .advance = 0xC000#16

/-- R190: INPUT runs KPOLL; without an event nothing more happens; an event writes its transition to the flag of voice 0 at the
step KEYMAP gives its key, and no other flag changes; a step out of range faults, with what KPOLL did kept and PAT unchanged. -/
def Obligations.InputAppliesKeyEvent : Prop :=
  (∀ s u : State, FilesSized s → 1 ≤ s.cfg.voices → exec .kpoll s = .next u →
    (u.evt.valid = false → exec .input s = .next u) ∧
    (u.evt.valid = true → keyStep s.cfg u.evt.key.toNat < s.cfg.steps →
      ∃ t, exec .input s = .next t ∧ t = { u with pat := t.pat } ∧ FilesSized t ∧
        ∀ v st, patFlag t v st =
          if v = 0 ∧ st = keyStep s.cfg u.evt.key.toNat then u.evt.pressed else patFlag s v st) ∧
    (u.evt.valid = true → s.cfg.steps ≤ keyStep s.cfg u.evt.key.toNat →
      exec .input s = .next { u with fault := true, fcause := 1#2, finfo := currentWord s })) ∧
  encode .input = 0xD000#16

/-- The flag follows its key: with a KEYMAP inside the pattern that sends no two keys to one step, INPUT leaves
`PAT[0][KEYMAP[k]] = PREV[k]` for the key it reports, and for every other key for which it held before. The spec derives it
(R242, "the flag follows the reported state of its key"). -/
def Obligations.FlagFollowsReportedKey : Prop :=
  ∀ s : State, FilesSized s → 1 ≤ s.cfg.voices → s.cfg.keyCount ≤ 256 →
    (∀ k < s.cfg.keyCount, keyStep s.cfg k < s.cfg.steps) →
    (∀ k < s.cfg.keyCount, ∀ j < s.cfg.keyCount, keyStep s.cfg k = keyStep s.cfg j → k = j) →
    ∃ t, exec .input s = .next t ∧ t.fault = s.fault ∧
      ∀ k < s.cfg.keyCount,
        (t.evt.valid = true ∧ t.evt.key.toNat = k) ∨ patFlag s 0 (keyStep s.cfg k) = latch s k →
          patFlag t 0 (keyStep s.cfg k) = latch t k

/-! ### Reset and the whole machine -/

/-- R43: the reset value of every piece of state, for every configuration. The spec collects them (R43). -/
def Obligations.ResetValues : Prop :=
  ∀ c : Config,
    (∀ v st, patFlag (State.resetWith c) v st = false) ∧ (∀ i, bufReadBit (State.resetWith c) i = false) ∧
    (∀ k, latch (State.resetWith c) k = false) ∧ (State.resetWith c).step = 0#32 ∧ (State.resetWith c).last = 0#32 ∧
    (State.resetWith c).tempo = c.bpm ∧ (State.resetWith c).time = 0#32 ∧ (State.resetWith c).upc = 0#8 ∧
    (State.resetWith c).r = false ∧ (State.resetWith c).adv = false ∧ (State.resetWith c).evt = ⟨false, false, 0#8⟩ ∧
    (State.resetWith c).fault = false ∧ (State.resetWith c).fcause = 0#2 ∧ (State.resetWith c).finfo = 0x0000#16 ∧
    (∀ b, (State.resetWith c).buf.getD b 0x00#8 = 0x00#8) ∧ (State.resetWith c).ledData = false ∧
    (State.resetWith c).ledClk = false ∧ (State.resetWith c).ledStrobe = false ∧ (State.resetWith c).ledTrace = [] ∧
    (State.resetWith c).noteTrace = [] ∧ FilesSized (State.resetWith c)

/-- Reset applied to any state, halted or not, gives every piece of the block's state its reset value, and the next step fetches
ROM[0]. That reset is an operation beside `step` and leaves the model's inputs alone is the model's choice (log entry 15). -/
def Obligations.ResetLeavesHaltedState : Prop :=
  ∀ s : State, 1 ≤ s.cfg.rom.length →
    applyReset s = { State.resetWith s.cfg with keyin := s.keyin, env := s.env, tick := s.tick } ∧ Safe (applyReset s) ∧
      s.cfg.rom[(applyReset s).upc.toNat]? = some (currentWord (applyReset s))

/-- The invariant holds after reset, for every configuration whose sizes are in range. -/
def Obligations.ResetMeetsWf : Prop := ∀ c : Config, c.Sized → (State.resetWith c).Wf

/-- Every step keeps the invariant: the sizes of the register files, UPC an index of ROM, TEMPO at its reset value, the status
group, the event latch, the lines at rest and whole flushes in LEDTRACE. -/
def Obligations.StepKeepsWf : Prop := ∀ s t : State, s.Wf → Sys2Proof.Machine.step s = .next t → t.Wf

/-- Every state that meets the invariant takes a step. -/
def Obligations.WfStateSteps : Prop := ∀ s : State, s.Wf → ∃ t, Sys2Proof.Machine.step s = .next t

/-- R24, the column "written by": each piece of state changes only by an operation of its row, and by fault entry for the
status group; TEMPO, TIME, the inputs, UPC and the configuration by none. The spec derives the table (R24). -/
def Obligations.WritersOfEachState : Prop :=
  ∀ (i : Instr) (s t : State), exec i s = .next t →
    t.cfg = s.cfg ∧ t.tempo = s.tempo ∧ t.time = s.time ∧ t.keyin = s.keyin ∧ t.env = s.env ∧ t.tick = s.tick ∧
    t.upc = s.upc ∧
    (t.pat ≠ s.pat → (∃ v st a, i = .pset v st a) ∨ i = .input) ∧
    (t.step ≠ s.step ∨ t.last ≠ s.last ∨ t.adv ≠ s.adv → i = .tadv ∨ i = .advance) ∧
    (t.buf ≠ s.buf → (∃ j a, i = .bset j a) ∨ i = .render ∨ i = .advance) ∧
    (t.prev ≠ s.prev ∨ t.evt ≠ s.evt → i = .krst ∨ i = .kpoll ∨ i = .input) ∧
    (t.r ≠ s.r → (∃ v st, i = .pget v st) ∨ ∃ j, i = .bget j) ∧
    (t.ledData ≠ s.ledData ∨ t.ledClk ≠ s.ledClk ∨ t.ledStrobe ≠ s.ledStrobe ∨ t.ledTrace ≠ s.ledTrace →
      i = .flush ∨ i = .render) ∧
    (t.noteTrace ≠ s.noteTrace → (∃ st, i = .ndisp st) ∨ i = .dispatch) ∧
    (t.fault ≠ s.fault ∨ t.fcause ≠ s.fcause ∨ t.finfo ≠ s.finfo →
      t.fault = true ∧ t.fcause ≠ 0#2 ∧ t.finfo = currentWord s)

/-- R24, the column "read by", for the two inputs and for R: an operation other than TADV and ADVANCE does the same whatever TIME
is, one other than KRST, KPOLL and INPUT whatever KEYIN is, and every operation leaves all of the state but R the same whatever R
is; R keeps its own value unless the operation is PGET or BGET. The new value of R that those two write is left open here:
`PgetReadsFlagIntoR` and `BgetReadsBitIntoR` give it. The spec derives the table (R24). -/
def Obligations.ReadersOfInputsAndR : Prop :=
  ∀ (i : Instr) (s t : State), exec i s = .next t →
    (i ≠ .tadv → i ≠ .advance → ∀ x, exec i { s with time := x } = .next { t with time := x }) ∧
    (i ≠ .krst → i ≠ .kpoll → i ≠ .input → ∀ x, exec i { s with keyin := x } = .next { t with keyin := x }) ∧
    (∀ x, ∃ y, exec i { s with r := x } = .next { t with r := y } ∧
      (y = x ∨ (∃ v st, i = .pget v st) ∨ ∃ j, i = .bget j))

/-- LEDTRACE and NOTETRACE are empty at reset and only ever grow, in every step. -/
def Obligations.TracesOnlyGrow : Prop :=
  (∀ c : Config, (State.resetWith c).ledTrace = [] ∧ (State.resetWith c).noteTrace = []) ∧
  (∀ s t : State, Sys2Proof.Machine.step s = .next t →
    (∃ new, t.ledTrace = s.ledTrace ++ new) ∧ ∃ new, t.noteTrace = s.noteTrace ++ new)

/-- The canonical control loop of a well-formed configuration cannot fault: from every state that meets the invariant and
has not faulted a step gives such a state again, and UPC walks KRST once and then RENDER, DISPATCH, ADVANCE, INPUT for ever.
The spec derives it (R214). -/
def Obligations.CanonicalLoopNeverFaults : Prop :=
  ∀ s : State, Canonical s.cfg → s.Wf → Safe s →
    ∃ t, Sys2Proof.Machine.step s = .next t ∧ Safe t ∧
      t.upc.toNat = if s.upc.toNat = 4 then 1 else s.upc.toNat + 1

/-- One lit step: under the canonical control store, with `S <= 8*LEN`, every step keeps the invariant that BUF has exactly
one set bit, at the playhead, between RENDER and ADVANCE, at most that one elsewhere, and that every frame committed so far
has exactly one 1. The spec derives it (R192, "One lit step"). -/
def Obligations.StepKeepsOneLitStep : Prop :=
  ∀ s t : State, Canonical s.cfg → s.cfg.steps ≤ 8 * s.cfg.len → s.Wf → Safe s → OneLit s →
    Sys2Proof.Machine.step s = .next t → OneLit t

/-- One lit step holds after reset. -/
def Obligations.ResetMeetsOneLit : Prop := ∀ c : Config, OneLit (State.resetWith c)

/-- The hardware as built, from reset: under a well-formed configuration with the canonical control store and `S <= 8*LEN`, and
whatever the environment does, any number of steps is taken, none faults, and every frame committed has exactly one 1. It is the
closure from reset of `StepKeepsWf`, `CanonicalLoopNeverFaults` and `StepKeepsOneLitStep`. It rests on the inferences R192 and
R214 of the spec. -/
def Obligations.CanonicalRunNeverStops : Prop :=
  ∀ (c : Config) (moves : List EnvMove) (n : Nat), Canonical c → c.steps ≤ 8 * c.len →
    ∃ t, Sys2Proof.core.run n { State.resetWith c with env := moves } = .next t ∧ t.Wf ∧ Safe t ∧ FramesOneLit t
end

