-- ==== Sys2Proof/Laws/State.lean ====
section
/-! SUPPORT. What every update of State leaves in every field, one lemma per field per update, so that no later proof unfolds a
record update. -/

namespace Sys2Proof.Machine

/-! ### enterFault -/

@[simp] theorem enterFault_cfg (cause : FaultCause) (s : State) :
    (enterFault cause s).cfg = s.cfg := rfl
@[simp] theorem enterFault_pat (cause : FaultCause) (s : State) :
    (enterFault cause s).pat = s.pat := rfl
@[simp] theorem enterFault_buf (cause : FaultCause) (s : State) :
    (enterFault cause s).buf = s.buf := rfl
@[simp] theorem enterFault_prev (cause : FaultCause) (s : State) :
    (enterFault cause s).prev = s.prev := rfl
@[simp] theorem enterFault_step (cause : FaultCause) (s : State) :
    (enterFault cause s).step = s.step := rfl
@[simp] theorem enterFault_last (cause : FaultCause) (s : State) :
    (enterFault cause s).last = s.last := rfl
@[simp] theorem enterFault_tempo (cause : FaultCause) (s : State) :
    (enterFault cause s).tempo = s.tempo := rfl
@[simp] theorem enterFault_time (cause : FaultCause) (s : State) :
    (enterFault cause s).time = s.time := rfl
@[simp] theorem enterFault_upc (cause : FaultCause) (s : State) :
    (enterFault cause s).upc = s.upc := rfl
@[simp] theorem enterFault_r (cause : FaultCause) (s : State) :
    (enterFault cause s).r = s.r := rfl
@[simp] theorem enterFault_adv (cause : FaultCause) (s : State) :
    (enterFault cause s).adv = s.adv := rfl
@[simp] theorem enterFault_evt (cause : FaultCause) (s : State) :
    (enterFault cause s).evt = s.evt := rfl
@[simp] theorem enterFault_fault (cause : FaultCause) (s : State) :
    (enterFault cause s).fault = true := rfl
@[simp] theorem enterFault_fcause (cause : FaultCause) (s : State) :
    (enterFault cause s).fcause = (causeCode cause) := rfl
@[simp] theorem enterFault_finfo (cause : FaultCause) (s : State) :
    (enterFault cause s).finfo = (currentWord s) := rfl
@[simp] theorem enterFault_ledData (cause : FaultCause) (s : State) :
    (enterFault cause s).ledData = s.ledData := rfl
@[simp] theorem enterFault_ledClk (cause : FaultCause) (s : State) :
    (enterFault cause s).ledClk = s.ledClk := rfl
@[simp] theorem enterFault_ledStrobe (cause : FaultCause) (s : State) :
    (enterFault cause s).ledStrobe = s.ledStrobe := rfl
@[simp] theorem enterFault_ledTrace (cause : FaultCause) (s : State) :
    (enterFault cause s).ledTrace = s.ledTrace := rfl
@[simp] theorem enterFault_noteTrace (cause : FaultCause) (s : State) :
    (enterFault cause s).noteTrace = s.noteTrace := rfl
@[simp] theorem enterFault_keyin (cause : FaultCause) (s : State) :
    (enterFault cause s).keyin = s.keyin := rfl
@[simp] theorem enterFault_env (cause : FaultCause) (s : State) :
    (enterFault cause s).env = s.env := rfl
@[simp] theorem enterFault_tick (cause : FaultCause) (s : State) :
    (enterFault cause s).tick = s.tick := rfl

/-! ### advanceUpc -/

@[simp] theorem advanceUpc_cfg (s : State) :
    (advanceUpc s).cfg = s.cfg := rfl
@[simp] theorem advanceUpc_pat (s : State) :
    (advanceUpc s).pat = s.pat := rfl
@[simp] theorem advanceUpc_buf (s : State) :
    (advanceUpc s).buf = s.buf := rfl
@[simp] theorem advanceUpc_prev (s : State) :
    (advanceUpc s).prev = s.prev := rfl
@[simp] theorem advanceUpc_step (s : State) :
    (advanceUpc s).step = s.step := rfl
@[simp] theorem advanceUpc_last (s : State) :
    (advanceUpc s).last = s.last := rfl
@[simp] theorem advanceUpc_tempo (s : State) :
    (advanceUpc s).tempo = s.tempo := rfl
@[simp] theorem advanceUpc_time (s : State) :
    (advanceUpc s).time = s.time := rfl
@[simp] theorem advanceUpc_upc (s : State) :
    (advanceUpc s).upc = (if s.upc.toNat + 1 < s.cfg.rom.length then s.upc + 1#8 else BitVec.ofNat 8 s.cfg.loopStart) := rfl
@[simp] theorem advanceUpc_r (s : State) :
    (advanceUpc s).r = s.r := rfl
@[simp] theorem advanceUpc_adv (s : State) :
    (advanceUpc s).adv = s.adv := rfl
@[simp] theorem advanceUpc_evt (s : State) :
    (advanceUpc s).evt = s.evt := rfl
@[simp] theorem advanceUpc_fault (s : State) :
    (advanceUpc s).fault = s.fault := rfl
@[simp] theorem advanceUpc_fcause (s : State) :
    (advanceUpc s).fcause = s.fcause := rfl
@[simp] theorem advanceUpc_finfo (s : State) :
    (advanceUpc s).finfo = s.finfo := rfl
@[simp] theorem advanceUpc_ledData (s : State) :
    (advanceUpc s).ledData = s.ledData := rfl
@[simp] theorem advanceUpc_ledClk (s : State) :
    (advanceUpc s).ledClk = s.ledClk := rfl
@[simp] theorem advanceUpc_ledStrobe (s : State) :
    (advanceUpc s).ledStrobe = s.ledStrobe := rfl
@[simp] theorem advanceUpc_ledTrace (s : State) :
    (advanceUpc s).ledTrace = s.ledTrace := rfl
@[simp] theorem advanceUpc_noteTrace (s : State) :
    (advanceUpc s).noteTrace = s.noteTrace := rfl
@[simp] theorem advanceUpc_keyin (s : State) :
    (advanceUpc s).keyin = s.keyin := rfl
@[simp] theorem advanceUpc_env (s : State) :
    (advanceUpc s).env = s.env := rfl
@[simp] theorem advanceUpc_tick (s : State) :
    (advanceUpc s).tick = s.tick := rfl

/-! ### environment -/

@[simp] theorem environment_cfg (s : State) :
    (environment s).cfg = s.cfg := rfl
@[simp] theorem environment_pat (s : State) :
    (environment s).pat = s.pat := rfl
@[simp] theorem environment_buf (s : State) :
    (environment s).buf = s.buf := rfl
@[simp] theorem environment_prev (s : State) :
    (environment s).prev = s.prev := rfl
@[simp] theorem environment_step (s : State) :
    (environment s).step = s.step := rfl
@[simp] theorem environment_last (s : State) :
    (environment s).last = s.last := rfl
@[simp] theorem environment_tempo (s : State) :
    (environment s).tempo = s.tempo := rfl
@[simp] theorem environment_time (s : State) :
    (environment s).time = (s.time + (nextMove s).elapsed) := rfl
@[simp] theorem environment_upc (s : State) :
    (environment s).upc = s.upc := rfl
@[simp] theorem environment_r (s : State) :
    (environment s).r = s.r := rfl
@[simp] theorem environment_adv (s : State) :
    (environment s).adv = s.adv := rfl
@[simp] theorem environment_evt (s : State) :
    (environment s).evt = s.evt := rfl
@[simp] theorem environment_fault (s : State) :
    (environment s).fault = s.fault := rfl
@[simp] theorem environment_fcause (s : State) :
    (environment s).fcause = s.fcause := rfl
@[simp] theorem environment_finfo (s : State) :
    (environment s).finfo = s.finfo := rfl
@[simp] theorem environment_ledData (s : State) :
    (environment s).ledData = s.ledData := rfl
@[simp] theorem environment_ledClk (s : State) :
    (environment s).ledClk = s.ledClk := rfl
@[simp] theorem environment_ledStrobe (s : State) :
    (environment s).ledStrobe = s.ledStrobe := rfl
@[simp] theorem environment_ledTrace (s : State) :
    (environment s).ledTrace = s.ledTrace := rfl
@[simp] theorem environment_noteTrace (s : State) :
    (environment s).noteTrace = s.noteTrace := rfl
@[simp] theorem environment_keyin (s : State) :
    (environment s).keyin = (pressedVector s.cfg (nextMove s).levels) := rfl
@[simp] theorem environment_env (s : State) :
    (environment s).env = s.env.tail := rfl
@[simp] theorem environment_tick (s : State) :
    (environment s).tick = (s.tick + 1) := rfl

/-! ### setFlag -/

@[simp] theorem setFlag_cfg (s : State) (v st : Nat) (a : Bool) :
    (setFlag s v st a).cfg = s.cfg := rfl
@[simp] theorem setFlag_pat (s : State) (v st : Nat) (a : Bool) :
    (setFlag s v st a).pat = (s.pat.modify v fun row => row.set st a) := rfl
@[simp] theorem setFlag_buf (s : State) (v st : Nat) (a : Bool) :
    (setFlag s v st a).buf = s.buf := rfl
@[simp] theorem setFlag_prev (s : State) (v st : Nat) (a : Bool) :
    (setFlag s v st a).prev = s.prev := rfl
@[simp] theorem setFlag_step (s : State) (v st : Nat) (a : Bool) :
    (setFlag s v st a).step = s.step := rfl
@[simp] theorem setFlag_last (s : State) (v st : Nat) (a : Bool) :
    (setFlag s v st a).last = s.last := rfl
@[simp] theorem setFlag_tempo (s : State) (v st : Nat) (a : Bool) :
    (setFlag s v st a).tempo = s.tempo := rfl
@[simp] theorem setFlag_time (s : State) (v st : Nat) (a : Bool) :
    (setFlag s v st a).time = s.time := rfl
@[simp] theorem setFlag_upc (s : State) (v st : Nat) (a : Bool) :
    (setFlag s v st a).upc = s.upc := rfl
@[simp] theorem setFlag_r (s : State) (v st : Nat) (a : Bool) :
    (setFlag s v st a).r = s.r := rfl
@[simp] theorem setFlag_adv (s : State) (v st : Nat) (a : Bool) :
    (setFlag s v st a).adv = s.adv := rfl
@[simp] theorem setFlag_evt (s : State) (v st : Nat) (a : Bool) :
    (setFlag s v st a).evt = s.evt := rfl
@[simp] theorem setFlag_fault (s : State) (v st : Nat) (a : Bool) :
    (setFlag s v st a).fault = s.fault := rfl
@[simp] theorem setFlag_fcause (s : State) (v st : Nat) (a : Bool) :
    (setFlag s v st a).fcause = s.fcause := rfl
@[simp] theorem setFlag_finfo (s : State) (v st : Nat) (a : Bool) :
    (setFlag s v st a).finfo = s.finfo := rfl
@[simp] theorem setFlag_ledData (s : State) (v st : Nat) (a : Bool) :
    (setFlag s v st a).ledData = s.ledData := rfl
@[simp] theorem setFlag_ledClk (s : State) (v st : Nat) (a : Bool) :
    (setFlag s v st a).ledClk = s.ledClk := rfl
@[simp] theorem setFlag_ledStrobe (s : State) (v st : Nat) (a : Bool) :
    (setFlag s v st a).ledStrobe = s.ledStrobe := rfl
@[simp] theorem setFlag_ledTrace (s : State) (v st : Nat) (a : Bool) :
    (setFlag s v st a).ledTrace = s.ledTrace := rfl
@[simp] theorem setFlag_noteTrace (s : State) (v st : Nat) (a : Bool) :
    (setFlag s v st a).noteTrace = s.noteTrace := rfl
@[simp] theorem setFlag_keyin (s : State) (v st : Nat) (a : Bool) :
    (setFlag s v st a).keyin = s.keyin := rfl
@[simp] theorem setFlag_env (s : State) (v st : Nat) (a : Bool) :
    (setFlag s v st a).env = s.env := rfl
@[simp] theorem setFlag_tick (s : State) (v st : Nat) (a : Bool) :
    (setFlag s v st a).tick = s.tick := rfl

/-! ### driveData -/

@[simp] theorem driveData_cfg (b : Bool) (s : State) :
    (driveData b s).cfg = s.cfg := rfl
@[simp] theorem driveData_pat (b : Bool) (s : State) :
    (driveData b s).pat = s.pat := rfl
@[simp] theorem driveData_buf (b : Bool) (s : State) :
    (driveData b s).buf = s.buf := rfl
@[simp] theorem driveData_prev (b : Bool) (s : State) :
    (driveData b s).prev = s.prev := rfl
@[simp] theorem driveData_step (b : Bool) (s : State) :
    (driveData b s).step = s.step := rfl
@[simp] theorem driveData_last (b : Bool) (s : State) :
    (driveData b s).last = s.last := rfl
@[simp] theorem driveData_tempo (b : Bool) (s : State) :
    (driveData b s).tempo = s.tempo := rfl
@[simp] theorem driveData_time (b : Bool) (s : State) :
    (driveData b s).time = s.time := rfl
@[simp] theorem driveData_upc (b : Bool) (s : State) :
    (driveData b s).upc = s.upc := rfl
@[simp] theorem driveData_r (b : Bool) (s : State) :
    (driveData b s).r = s.r := rfl
@[simp] theorem driveData_adv (b : Bool) (s : State) :
    (driveData b s).adv = s.adv := rfl
@[simp] theorem driveData_evt (b : Bool) (s : State) :
    (driveData b s).evt = s.evt := rfl
@[simp] theorem driveData_fault (b : Bool) (s : State) :
    (driveData b s).fault = s.fault := rfl
@[simp] theorem driveData_fcause (b : Bool) (s : State) :
    (driveData b s).fcause = s.fcause := rfl
@[simp] theorem driveData_finfo (b : Bool) (s : State) :
    (driveData b s).finfo = s.finfo := rfl
@[simp] theorem driveData_ledData (b : Bool) (s : State) :
    (driveData b s).ledData = b := rfl
@[simp] theorem driveData_ledClk (b : Bool) (s : State) :
    (driveData b s).ledClk = s.ledClk := rfl
@[simp] theorem driveData_ledStrobe (b : Bool) (s : State) :
    (driveData b s).ledStrobe = s.ledStrobe := rfl
@[simp] theorem driveData_ledTrace (b : Bool) (s : State) :
    (driveData b s).ledTrace = (s.ledTrace ++ [if b then LineEvent.d1 else LineEvent.d0]) := rfl
@[simp] theorem driveData_noteTrace (b : Bool) (s : State) :
    (driveData b s).noteTrace = s.noteTrace := rfl
@[simp] theorem driveData_keyin (b : Bool) (s : State) :
    (driveData b s).keyin = s.keyin := rfl
@[simp] theorem driveData_env (b : Bool) (s : State) :
    (driveData b s).env = s.env := rfl
@[simp] theorem driveData_tick (b : Bool) (s : State) :
    (driveData b s).tick = s.tick := rfl

/-! ### driveClk -/

@[simp] theorem driveClk_cfg (b : Bool) (s : State) :
    (driveClk b s).cfg = s.cfg := rfl
@[simp] theorem driveClk_pat (b : Bool) (s : State) :
    (driveClk b s).pat = s.pat := rfl
@[simp] theorem driveClk_buf (b : Bool) (s : State) :
    (driveClk b s).buf = s.buf := rfl
@[simp] theorem driveClk_prev (b : Bool) (s : State) :
    (driveClk b s).prev = s.prev := rfl
@[simp] theorem driveClk_step (b : Bool) (s : State) :
    (driveClk b s).step = s.step := rfl
@[simp] theorem driveClk_last (b : Bool) (s : State) :
    (driveClk b s).last = s.last := rfl
@[simp] theorem driveClk_tempo (b : Bool) (s : State) :
    (driveClk b s).tempo = s.tempo := rfl
@[simp] theorem driveClk_time (b : Bool) (s : State) :
    (driveClk b s).time = s.time := rfl
@[simp] theorem driveClk_upc (b : Bool) (s : State) :
    (driveClk b s).upc = s.upc := rfl
@[simp] theorem driveClk_r (b : Bool) (s : State) :
    (driveClk b s).r = s.r := rfl
@[simp] theorem driveClk_adv (b : Bool) (s : State) :
    (driveClk b s).adv = s.adv := rfl
@[simp] theorem driveClk_evt (b : Bool) (s : State) :
    (driveClk b s).evt = s.evt := rfl
@[simp] theorem driveClk_fault (b : Bool) (s : State) :
    (driveClk b s).fault = s.fault := rfl
@[simp] theorem driveClk_fcause (b : Bool) (s : State) :
    (driveClk b s).fcause = s.fcause := rfl
@[simp] theorem driveClk_finfo (b : Bool) (s : State) :
    (driveClk b s).finfo = s.finfo := rfl
@[simp] theorem driveClk_ledData (b : Bool) (s : State) :
    (driveClk b s).ledData = s.ledData := rfl
@[simp] theorem driveClk_ledClk (b : Bool) (s : State) :
    (driveClk b s).ledClk = b := rfl
@[simp] theorem driveClk_ledStrobe (b : Bool) (s : State) :
    (driveClk b s).ledStrobe = s.ledStrobe := rfl
@[simp] theorem driveClk_ledTrace (b : Bool) (s : State) :
    (driveClk b s).ledTrace = (s.ledTrace ++ [if b then LineEvent.c1 else LineEvent.c0]) := rfl
@[simp] theorem driveClk_noteTrace (b : Bool) (s : State) :
    (driveClk b s).noteTrace = s.noteTrace := rfl
@[simp] theorem driveClk_keyin (b : Bool) (s : State) :
    (driveClk b s).keyin = s.keyin := rfl
@[simp] theorem driveClk_env (b : Bool) (s : State) :
    (driveClk b s).env = s.env := rfl
@[simp] theorem driveClk_tick (b : Bool) (s : State) :
    (driveClk b s).tick = s.tick := rfl

/-! ### driveStrobe -/

@[simp] theorem driveStrobe_cfg (b : Bool) (s : State) :
    (driveStrobe b s).cfg = s.cfg := rfl
@[simp] theorem driveStrobe_pat (b : Bool) (s : State) :
    (driveStrobe b s).pat = s.pat := rfl
@[simp] theorem driveStrobe_buf (b : Bool) (s : State) :
    (driveStrobe b s).buf = s.buf := rfl
@[simp] theorem driveStrobe_prev (b : Bool) (s : State) :
    (driveStrobe b s).prev = s.prev := rfl
@[simp] theorem driveStrobe_step (b : Bool) (s : State) :
    (driveStrobe b s).step = s.step := rfl
@[simp] theorem driveStrobe_last (b : Bool) (s : State) :
    (driveStrobe b s).last = s.last := rfl
@[simp] theorem driveStrobe_tempo (b : Bool) (s : State) :
    (driveStrobe b s).tempo = s.tempo := rfl
@[simp] theorem driveStrobe_time (b : Bool) (s : State) :
    (driveStrobe b s).time = s.time := rfl
@[simp] theorem driveStrobe_upc (b : Bool) (s : State) :
    (driveStrobe b s).upc = s.upc := rfl
@[simp] theorem driveStrobe_r (b : Bool) (s : State) :
    (driveStrobe b s).r = s.r := rfl
@[simp] theorem driveStrobe_adv (b : Bool) (s : State) :
    (driveStrobe b s).adv = s.adv := rfl
@[simp] theorem driveStrobe_evt (b : Bool) (s : State) :
    (driveStrobe b s).evt = s.evt := rfl
@[simp] theorem driveStrobe_fault (b : Bool) (s : State) :
    (driveStrobe b s).fault = s.fault := rfl
@[simp] theorem driveStrobe_fcause (b : Bool) (s : State) :
    (driveStrobe b s).fcause = s.fcause := rfl
@[simp] theorem driveStrobe_finfo (b : Bool) (s : State) :
    (driveStrobe b s).finfo = s.finfo := rfl
@[simp] theorem driveStrobe_ledData (b : Bool) (s : State) :
    (driveStrobe b s).ledData = s.ledData := rfl
@[simp] theorem driveStrobe_ledClk (b : Bool) (s : State) :
    (driveStrobe b s).ledClk = s.ledClk := rfl
@[simp] theorem driveStrobe_ledStrobe (b : Bool) (s : State) :
    (driveStrobe b s).ledStrobe = b := rfl
@[simp] theorem driveStrobe_ledTrace (b : Bool) (s : State) :
    (driveStrobe b s).ledTrace = (s.ledTrace ++ [if b then LineEvent.s1 else LineEvent.s0]) := rfl
@[simp] theorem driveStrobe_noteTrace (b : Bool) (s : State) :
    (driveStrobe b s).noteTrace = s.noteTrace := rfl
@[simp] theorem driveStrobe_keyin (b : Bool) (s : State) :
    (driveStrobe b s).keyin = s.keyin := rfl
@[simp] theorem driveStrobe_env (b : Bool) (s : State) :
    (driveStrobe b s).env = s.env := rfl
@[simp] theorem driveStrobe_tick (b : Bool) (s : State) :
    (driveStrobe b s).tick = s.tick := rfl

/-! ### emitNotes -/

@[simp] theorem emitNotes_cfg (notes : List Trigger) (s : State) :
    (emitNotes notes s).cfg = s.cfg := rfl
@[simp] theorem emitNotes_pat (notes : List Trigger) (s : State) :
    (emitNotes notes s).pat = s.pat := rfl
@[simp] theorem emitNotes_buf (notes : List Trigger) (s : State) :
    (emitNotes notes s).buf = s.buf := rfl
@[simp] theorem emitNotes_prev (notes : List Trigger) (s : State) :
    (emitNotes notes s).prev = s.prev := rfl
@[simp] theorem emitNotes_step (notes : List Trigger) (s : State) :
    (emitNotes notes s).step = s.step := rfl
@[simp] theorem emitNotes_last (notes : List Trigger) (s : State) :
    (emitNotes notes s).last = s.last := rfl
@[simp] theorem emitNotes_tempo (notes : List Trigger) (s : State) :
    (emitNotes notes s).tempo = s.tempo := rfl
@[simp] theorem emitNotes_time (notes : List Trigger) (s : State) :
    (emitNotes notes s).time = s.time := rfl
@[simp] theorem emitNotes_upc (notes : List Trigger) (s : State) :
    (emitNotes notes s).upc = s.upc := rfl
@[simp] theorem emitNotes_r (notes : List Trigger) (s : State) :
    (emitNotes notes s).r = s.r := rfl
@[simp] theorem emitNotes_adv (notes : List Trigger) (s : State) :
    (emitNotes notes s).adv = s.adv := rfl
@[simp] theorem emitNotes_evt (notes : List Trigger) (s : State) :
    (emitNotes notes s).evt = s.evt := rfl
@[simp] theorem emitNotes_fault (notes : List Trigger) (s : State) :
    (emitNotes notes s).fault = s.fault := rfl
@[simp] theorem emitNotes_fcause (notes : List Trigger) (s : State) :
    (emitNotes notes s).fcause = s.fcause := rfl
@[simp] theorem emitNotes_finfo (notes : List Trigger) (s : State) :
    (emitNotes notes s).finfo = s.finfo := rfl
@[simp] theorem emitNotes_ledData (notes : List Trigger) (s : State) :
    (emitNotes notes s).ledData = s.ledData := rfl
@[simp] theorem emitNotes_ledClk (notes : List Trigger) (s : State) :
    (emitNotes notes s).ledClk = s.ledClk := rfl
@[simp] theorem emitNotes_ledStrobe (notes : List Trigger) (s : State) :
    (emitNotes notes s).ledStrobe = s.ledStrobe := rfl
@[simp] theorem emitNotes_ledTrace (notes : List Trigger) (s : State) :
    (emitNotes notes s).ledTrace = s.ledTrace := rfl
@[simp] theorem emitNotes_noteTrace (notes : List Trigger) (s : State) :
    (emitNotes notes s).noteTrace = (s.noteTrace ++ notes) := rfl
@[simp] theorem emitNotes_keyin (notes : List Trigger) (s : State) :
    (emitNotes notes s).keyin = s.keyin := rfl
@[simp] theorem emitNotes_env (notes : List Trigger) (s : State) :
    (emitNotes notes s).env = s.env := rfl
@[simp] theorem emitNotes_tick (notes : List Trigger) (s : State) :
    (emitNotes notes s).tick = s.tick := rfl

/-! ### setR -/

@[simp] theorem setR_cfg (b : Bool) (s : State) :
    (setR b s).cfg = s.cfg := rfl
@[simp] theorem setR_pat (b : Bool) (s : State) :
    (setR b s).pat = s.pat := rfl
@[simp] theorem setR_buf (b : Bool) (s : State) :
    (setR b s).buf = s.buf := rfl
@[simp] theorem setR_prev (b : Bool) (s : State) :
    (setR b s).prev = s.prev := rfl
@[simp] theorem setR_step (b : Bool) (s : State) :
    (setR b s).step = s.step := rfl
@[simp] theorem setR_last (b : Bool) (s : State) :
    (setR b s).last = s.last := rfl
@[simp] theorem setR_tempo (b : Bool) (s : State) :
    (setR b s).tempo = s.tempo := rfl
@[simp] theorem setR_time (b : Bool) (s : State) :
    (setR b s).time = s.time := rfl
@[simp] theorem setR_upc (b : Bool) (s : State) :
    (setR b s).upc = s.upc := rfl
@[simp] theorem setR_r (b : Bool) (s : State) :
    (setR b s).r = b := rfl
@[simp] theorem setR_adv (b : Bool) (s : State) :
    (setR b s).adv = s.adv := rfl
@[simp] theorem setR_evt (b : Bool) (s : State) :
    (setR b s).evt = s.evt := rfl
@[simp] theorem setR_fault (b : Bool) (s : State) :
    (setR b s).fault = s.fault := rfl
@[simp] theorem setR_fcause (b : Bool) (s : State) :
    (setR b s).fcause = s.fcause := rfl
@[simp] theorem setR_finfo (b : Bool) (s : State) :
    (setR b s).finfo = s.finfo := rfl
@[simp] theorem setR_ledData (b : Bool) (s : State) :
    (setR b s).ledData = s.ledData := rfl
@[simp] theorem setR_ledClk (b : Bool) (s : State) :
    (setR b s).ledClk = s.ledClk := rfl
@[simp] theorem setR_ledStrobe (b : Bool) (s : State) :
    (setR b s).ledStrobe = s.ledStrobe := rfl
@[simp] theorem setR_ledTrace (b : Bool) (s : State) :
    (setR b s).ledTrace = s.ledTrace := rfl
@[simp] theorem setR_noteTrace (b : Bool) (s : State) :
    (setR b s).noteTrace = s.noteTrace := rfl
@[simp] theorem setR_keyin (b : Bool) (s : State) :
    (setR b s).keyin = s.keyin := rfl
@[simp] theorem setR_env (b : Bool) (s : State) :
    (setR b s).env = s.env := rfl
@[simp] theorem setR_tick (b : Bool) (s : State) :
    (setR b s).tick = s.tick := rfl

/-! ### takeBoundary -/

@[simp] theorem takeBoundary_cfg (s : State) :
    (takeBoundary s).cfg = s.cfg := rfl
@[simp] theorem takeBoundary_pat (s : State) :
    (takeBoundary s).pat = s.pat := rfl
@[simp] theorem takeBoundary_buf (s : State) :
    (takeBoundary s).buf = s.buf := rfl
@[simp] theorem takeBoundary_prev (s : State) :
    (takeBoundary s).prev = s.prev := rfl
@[simp] theorem takeBoundary_step (s : State) :
    (takeBoundary s).step = (s.step + 1#32) := rfl
@[simp] theorem takeBoundary_last (s : State) :
    (takeBoundary s).last = s.time := rfl
@[simp] theorem takeBoundary_tempo (s : State) :
    (takeBoundary s).tempo = s.tempo := rfl
@[simp] theorem takeBoundary_time (s : State) :
    (takeBoundary s).time = s.time := rfl
@[simp] theorem takeBoundary_upc (s : State) :
    (takeBoundary s).upc = s.upc := rfl
@[simp] theorem takeBoundary_r (s : State) :
    (takeBoundary s).r = s.r := rfl
@[simp] theorem takeBoundary_adv (s : State) :
    (takeBoundary s).adv = true := rfl
@[simp] theorem takeBoundary_evt (s : State) :
    (takeBoundary s).evt = s.evt := rfl
@[simp] theorem takeBoundary_fault (s : State) :
    (takeBoundary s).fault = s.fault := rfl
@[simp] theorem takeBoundary_fcause (s : State) :
    (takeBoundary s).fcause = s.fcause := rfl
@[simp] theorem takeBoundary_finfo (s : State) :
    (takeBoundary s).finfo = s.finfo := rfl
@[simp] theorem takeBoundary_ledData (s : State) :
    (takeBoundary s).ledData = s.ledData := rfl
@[simp] theorem takeBoundary_ledClk (s : State) :
    (takeBoundary s).ledClk = s.ledClk := rfl
@[simp] theorem takeBoundary_ledStrobe (s : State) :
    (takeBoundary s).ledStrobe = s.ledStrobe := rfl
@[simp] theorem takeBoundary_ledTrace (s : State) :
    (takeBoundary s).ledTrace = s.ledTrace := rfl
@[simp] theorem takeBoundary_noteTrace (s : State) :
    (takeBoundary s).noteTrace = s.noteTrace := rfl
@[simp] theorem takeBoundary_keyin (s : State) :
    (takeBoundary s).keyin = s.keyin := rfl
@[simp] theorem takeBoundary_env (s : State) :
    (takeBoundary s).env = s.env := rfl
@[simp] theorem takeBoundary_tick (s : State) :
    (takeBoundary s).tick = s.tick := rfl

/-! ### noBoundary -/

@[simp] theorem noBoundary_cfg (s : State) :
    (noBoundary s).cfg = s.cfg := rfl
@[simp] theorem noBoundary_pat (s : State) :
    (noBoundary s).pat = s.pat := rfl
@[simp] theorem noBoundary_buf (s : State) :
    (noBoundary s).buf = s.buf := rfl
@[simp] theorem noBoundary_prev (s : State) :
    (noBoundary s).prev = s.prev := rfl
@[simp] theorem noBoundary_step (s : State) :
    (noBoundary s).step = s.step := rfl
@[simp] theorem noBoundary_last (s : State) :
    (noBoundary s).last = s.last := rfl
@[simp] theorem noBoundary_tempo (s : State) :
    (noBoundary s).tempo = s.tempo := rfl
@[simp] theorem noBoundary_time (s : State) :
    (noBoundary s).time = s.time := rfl
@[simp] theorem noBoundary_upc (s : State) :
    (noBoundary s).upc = s.upc := rfl
@[simp] theorem noBoundary_r (s : State) :
    (noBoundary s).r = s.r := rfl
@[simp] theorem noBoundary_adv (s : State) :
    (noBoundary s).adv = false := rfl
@[simp] theorem noBoundary_evt (s : State) :
    (noBoundary s).evt = s.evt := rfl
@[simp] theorem noBoundary_fault (s : State) :
    (noBoundary s).fault = s.fault := rfl
@[simp] theorem noBoundary_fcause (s : State) :
    (noBoundary s).fcause = s.fcause := rfl
@[simp] theorem noBoundary_finfo (s : State) :
    (noBoundary s).finfo = s.finfo := rfl
@[simp] theorem noBoundary_ledData (s : State) :
    (noBoundary s).ledData = s.ledData := rfl
@[simp] theorem noBoundary_ledClk (s : State) :
    (noBoundary s).ledClk = s.ledClk := rfl
@[simp] theorem noBoundary_ledStrobe (s : State) :
    (noBoundary s).ledStrobe = s.ledStrobe := rfl
@[simp] theorem noBoundary_ledTrace (s : State) :
    (noBoundary s).ledTrace = s.ledTrace := rfl
@[simp] theorem noBoundary_noteTrace (s : State) :
    (noBoundary s).noteTrace = s.noteTrace := rfl
@[simp] theorem noBoundary_keyin (s : State) :
    (noBoundary s).keyin = s.keyin := rfl
@[simp] theorem noBoundary_env (s : State) :
    (noBoundary s).env = s.env := rfl
@[simp] theorem noBoundary_tick (s : State) :
    (noBoundary s).tick = s.tick := rfl

/-! ### clearEvent -/

@[simp] theorem clearEvent_cfg (s : State) :
    (clearEvent s).cfg = s.cfg := rfl
@[simp] theorem clearEvent_pat (s : State) :
    (clearEvent s).pat = s.pat := rfl
@[simp] theorem clearEvent_buf (s : State) :
    (clearEvent s).buf = s.buf := rfl
@[simp] theorem clearEvent_prev (s : State) :
    (clearEvent s).prev = s.prev := rfl
@[simp] theorem clearEvent_step (s : State) :
    (clearEvent s).step = s.step := rfl
@[simp] theorem clearEvent_last (s : State) :
    (clearEvent s).last = s.last := rfl
@[simp] theorem clearEvent_tempo (s : State) :
    (clearEvent s).tempo = s.tempo := rfl
@[simp] theorem clearEvent_time (s : State) :
    (clearEvent s).time = s.time := rfl
@[simp] theorem clearEvent_upc (s : State) :
    (clearEvent s).upc = s.upc := rfl
@[simp] theorem clearEvent_r (s : State) :
    (clearEvent s).r = s.r := rfl
@[simp] theorem clearEvent_adv (s : State) :
    (clearEvent s).adv = s.adv := rfl
@[simp] theorem clearEvent_evt (s : State) :
    (clearEvent s).evt = KeyEvent.absent := rfl
@[simp] theorem clearEvent_fault (s : State) :
    (clearEvent s).fault = s.fault := rfl
@[simp] theorem clearEvent_fcause (s : State) :
    (clearEvent s).fcause = s.fcause := rfl
@[simp] theorem clearEvent_finfo (s : State) :
    (clearEvent s).finfo = s.finfo := rfl
@[simp] theorem clearEvent_ledData (s : State) :
    (clearEvent s).ledData = s.ledData := rfl
@[simp] theorem clearEvent_ledClk (s : State) :
    (clearEvent s).ledClk = s.ledClk := rfl
@[simp] theorem clearEvent_ledStrobe (s : State) :
    (clearEvent s).ledStrobe = s.ledStrobe := rfl
@[simp] theorem clearEvent_ledTrace (s : State) :
    (clearEvent s).ledTrace = s.ledTrace := rfl
@[simp] theorem clearEvent_noteTrace (s : State) :
    (clearEvent s).noteTrace = s.noteTrace := rfl
@[simp] theorem clearEvent_keyin (s : State) :
    (clearEvent s).keyin = s.keyin := rfl
@[simp] theorem clearEvent_env (s : State) :
    (clearEvent s).env = s.env := rfl
@[simp] theorem clearEvent_tick (s : State) :
    (clearEvent s).tick = s.tick := rfl

/-! ### reportKey -/

@[simp] theorem reportKey_cfg (k : Nat) (pressed : Bool) (s : State) :
    (reportKey k pressed s).cfg = s.cfg := rfl
@[simp] theorem reportKey_pat (k : Nat) (pressed : Bool) (s : State) :
    (reportKey k pressed s).pat = s.pat := rfl
@[simp] theorem reportKey_buf (k : Nat) (pressed : Bool) (s : State) :
    (reportKey k pressed s).buf = s.buf := rfl
@[simp] theorem reportKey_prev (k : Nat) (pressed : Bool) (s : State) :
    (reportKey k pressed s).prev = (s.prev.set k pressed) := rfl
@[simp] theorem reportKey_step (k : Nat) (pressed : Bool) (s : State) :
    (reportKey k pressed s).step = s.step := rfl
@[simp] theorem reportKey_last (k : Nat) (pressed : Bool) (s : State) :
    (reportKey k pressed s).last = s.last := rfl
@[simp] theorem reportKey_tempo (k : Nat) (pressed : Bool) (s : State) :
    (reportKey k pressed s).tempo = s.tempo := rfl
@[simp] theorem reportKey_time (k : Nat) (pressed : Bool) (s : State) :
    (reportKey k pressed s).time = s.time := rfl
@[simp] theorem reportKey_upc (k : Nat) (pressed : Bool) (s : State) :
    (reportKey k pressed s).upc = s.upc := rfl
@[simp] theorem reportKey_r (k : Nat) (pressed : Bool) (s : State) :
    (reportKey k pressed s).r = s.r := rfl
@[simp] theorem reportKey_adv (k : Nat) (pressed : Bool) (s : State) :
    (reportKey k pressed s).adv = s.adv := rfl
@[simp] theorem reportKey_evt (k : Nat) (pressed : Bool) (s : State) :
    (reportKey k pressed s).evt = (keyEventOf k pressed) := rfl
@[simp] theorem reportKey_fault (k : Nat) (pressed : Bool) (s : State) :
    (reportKey k pressed s).fault = s.fault := rfl
@[simp] theorem reportKey_fcause (k : Nat) (pressed : Bool) (s : State) :
    (reportKey k pressed s).fcause = s.fcause := rfl
@[simp] theorem reportKey_finfo (k : Nat) (pressed : Bool) (s : State) :
    (reportKey k pressed s).finfo = s.finfo := rfl
@[simp] theorem reportKey_ledData (k : Nat) (pressed : Bool) (s : State) :
    (reportKey k pressed s).ledData = s.ledData := rfl
@[simp] theorem reportKey_ledClk (k : Nat) (pressed : Bool) (s : State) :
    (reportKey k pressed s).ledClk = s.ledClk := rfl
@[simp] theorem reportKey_ledStrobe (k : Nat) (pressed : Bool) (s : State) :
    (reportKey k pressed s).ledStrobe = s.ledStrobe := rfl
@[simp] theorem reportKey_ledTrace (k : Nat) (pressed : Bool) (s : State) :
    (reportKey k pressed s).ledTrace = s.ledTrace := rfl
@[simp] theorem reportKey_noteTrace (k : Nat) (pressed : Bool) (s : State) :
    (reportKey k pressed s).noteTrace = s.noteTrace := rfl
@[simp] theorem reportKey_keyin (k : Nat) (pressed : Bool) (s : State) :
    (reportKey k pressed s).keyin = s.keyin := rfl
@[simp] theorem reportKey_env (k : Nat) (pressed : Bool) (s : State) :
    (reportKey k pressed s).env = s.env := rfl
@[simp] theorem reportKey_tick (k : Nat) (pressed : Bool) (s : State) :
    (reportKey k pressed s).tick = s.tick := rfl

/-! ### krstBody -/

@[simp] theorem krstBody_cfg (s : State) :
    (krstBody s).cfg = s.cfg := rfl
@[simp] theorem krstBody_pat (s : State) :
    (krstBody s).pat = s.pat := rfl
@[simp] theorem krstBody_buf (s : State) :
    (krstBody s).buf = s.buf := rfl
@[simp] theorem krstBody_prev (s : State) :
    (krstBody s).prev = (sample s) := rfl
@[simp] theorem krstBody_step (s : State) :
    (krstBody s).step = s.step := rfl
@[simp] theorem krstBody_last (s : State) :
    (krstBody s).last = s.last := rfl
@[simp] theorem krstBody_tempo (s : State) :
    (krstBody s).tempo = s.tempo := rfl
@[simp] theorem krstBody_time (s : State) :
    (krstBody s).time = s.time := rfl
@[simp] theorem krstBody_upc (s : State) :
    (krstBody s).upc = s.upc := rfl
@[simp] theorem krstBody_r (s : State) :
    (krstBody s).r = s.r := rfl
@[simp] theorem krstBody_adv (s : State) :
    (krstBody s).adv = s.adv := rfl
@[simp] theorem krstBody_evt (s : State) :
    (krstBody s).evt = KeyEvent.absent := rfl
@[simp] theorem krstBody_fault (s : State) :
    (krstBody s).fault = s.fault := rfl
@[simp] theorem krstBody_fcause (s : State) :
    (krstBody s).fcause = s.fcause := rfl
@[simp] theorem krstBody_finfo (s : State) :
    (krstBody s).finfo = s.finfo := rfl
@[simp] theorem krstBody_ledData (s : State) :
    (krstBody s).ledData = s.ledData := rfl
@[simp] theorem krstBody_ledClk (s : State) :
    (krstBody s).ledClk = s.ledClk := rfl
@[simp] theorem krstBody_ledStrobe (s : State) :
    (krstBody s).ledStrobe = s.ledStrobe := rfl
@[simp] theorem krstBody_ledTrace (s : State) :
    (krstBody s).ledTrace = s.ledTrace := rfl
@[simp] theorem krstBody_noteTrace (s : State) :
    (krstBody s).noteTrace = s.noteTrace := rfl
@[simp] theorem krstBody_keyin (s : State) :
    (krstBody s).keyin = s.keyin := rfl
@[simp] theorem krstBody_env (s : State) :
    (krstBody s).env = s.env := rfl
@[simp] theorem krstBody_tick (s : State) :
    (krstBody s).tick = s.tick := rfl

/-! ### withInputs -/

@[simp] theorem withInputs_cfg (s : State) (m : Moment) :
    (withInputs s m).cfg = s.cfg := rfl
@[simp] theorem withInputs_pat (s : State) (m : Moment) :
    (withInputs s m).pat = s.pat := rfl
@[simp] theorem withInputs_buf (s : State) (m : Moment) :
    (withInputs s m).buf = s.buf := rfl
@[simp] theorem withInputs_prev (s : State) (m : Moment) :
    (withInputs s m).prev = s.prev := rfl
@[simp] theorem withInputs_step (s : State) (m : Moment) :
    (withInputs s m).step = s.step := rfl
@[simp] theorem withInputs_last (s : State) (m : Moment) :
    (withInputs s m).last = s.last := rfl
@[simp] theorem withInputs_tempo (s : State) (m : Moment) :
    (withInputs s m).tempo = s.tempo := rfl
@[simp] theorem withInputs_time (s : State) (m : Moment) :
    (withInputs s m).time = m.time := rfl
@[simp] theorem withInputs_upc (s : State) (m : Moment) :
    (withInputs s m).upc = s.upc := rfl
@[simp] theorem withInputs_r (s : State) (m : Moment) :
    (withInputs s m).r = s.r := rfl
@[simp] theorem withInputs_adv (s : State) (m : Moment) :
    (withInputs s m).adv = s.adv := rfl
@[simp] theorem withInputs_evt (s : State) (m : Moment) :
    (withInputs s m).evt = s.evt := rfl
@[simp] theorem withInputs_fault (s : State) (m : Moment) :
    (withInputs s m).fault = s.fault := rfl
@[simp] theorem withInputs_fcause (s : State) (m : Moment) :
    (withInputs s m).fcause = s.fcause := rfl
@[simp] theorem withInputs_finfo (s : State) (m : Moment) :
    (withInputs s m).finfo = s.finfo := rfl
@[simp] theorem withInputs_ledData (s : State) (m : Moment) :
    (withInputs s m).ledData = s.ledData := rfl
@[simp] theorem withInputs_ledClk (s : State) (m : Moment) :
    (withInputs s m).ledClk = s.ledClk := rfl
@[simp] theorem withInputs_ledStrobe (s : State) (m : Moment) :
    (withInputs s m).ledStrobe = s.ledStrobe := rfl
@[simp] theorem withInputs_ledTrace (s : State) (m : Moment) :
    (withInputs s m).ledTrace = s.ledTrace := rfl
@[simp] theorem withInputs_noteTrace (s : State) (m : Moment) :
    (withInputs s m).noteTrace = s.noteTrace := rfl
@[simp] theorem withInputs_keyin (s : State) (m : Moment) :
    (withInputs s m).keyin = m.keyin := rfl
@[simp] theorem withInputs_env (s : State) (m : Moment) :
    (withInputs s m).env = s.env := rfl
@[simp] theorem withInputs_tick (s : State) (m : Moment) :
    (withInputs s m).tick = s.tick := rfl

end Sys2Proof.Machine
end

