-- ==== Sys2Proof/Laws/Files.lean ====
section
/-! SUPPORT. The register files PAT, BUF and PREV: a read after a write (R62, R65, R66, R147), and that every file operation keeps
the sizes `FilesSized` states (R21, R33, R34). -/

namespace Sys2Proof.Machine

/-! ### Lists -/

theorem getD_set_bool (l : List Bool) (i j : Nat) (a d : Bool) (h : i < l.length) :
    (l.set i a).getD j d = if j = i then a else l.getD j d := by
  simp only [List.getD_eq_getElem?_getD, List.getElem?_set]
  by_cases hji : j = i
  · subst hji; simp [h]
  · simp [hji, Ne.symm hji]

theorem getD_modify {α : Type} (l : List α) (f : α → α) (i j : Nat) (d : α) (h : i < l.length) :
    (l.modify i f).getD j d = if j = i then f (l.getD i d) else l.getD j d := by
  simp only [List.getD_eq_getElem?_getD, List.getElem?_modify]
  by_cases hji : j = i
  · subst hji; simp [h]
  · simp [hji, Ne.symm hji]

/-! ### Pattern space (R62) -/

/-- After a write in range the flag written reads as the value, and every other flag as before. -/
theorem patFlag_setFlag (s : State) (v st v' st' : Nat) (a : Bool) (hs : FilesSized s) (hv : v < s.cfg.voices)
    (hst : st < s.cfg.steps) :
    patFlag (setFlag s v st a) v' st' = if v' = v ∧ st' = st then a else patFlag s v' st' := by
  have hlen : v < s.pat.length := by rw [hs.1]; exact hv
  have hrow : st < (s.pat.getD v []).length := by
    rw [List.getD_eq_getElem?_getD, List.getElem?_eq_getElem hlen, Option.getD_some,
      hs.2.1 _ (List.getElem_mem hlen)]
    exact hst
  simp only [patFlag, setFlag_pat]
  rw [getD_modify _ _ _ _ _ hlen]
  by_cases h : v' = v
  · subst h
    rw [if_pos rfl, getD_set_bool _ _ _ _ _ hrow]
    simp
  · rw [if_neg h, if_neg fun hh => h hh.1]

/-- A pattern write keeps the sizes of the files. -/
theorem setFlag_sized (s : State) (v st : Nat) (a : Bool) (hs : FilesSized s) : FilesSized (setFlag s v st a) := by
  refine ⟨by simpa using hs.1, ?_, by simpa using hs.2.2.1, by simpa using hs.2.2.2⟩
  intro row hrow
  obtain ⟨k, hk, hget⟩ := List.mem_iff_getElem.mp hrow
  rw [setFlag_pat] at hk
  simp only [setFlag_pat, List.getElem_modify] at hget
  simp only [setFlag_cfg]
  have hk' : k < s.pat.length := by simpa using hk
  have := hs.2.1 _ (List.getElem_mem hk')
  split at hget <;> subst hget <;> simpa using this

/-! ### Bit space (R64 to R66) -/

theorem indexMask_fst (i : Nat) : (indexMask i).1 = i / 8 := rfl

/-- The mask has exactly one bit set, at `i mod 8` (R64). -/
theorem indexMask_snd_getLsbD (i j : Nat) : (indexMask i).2.getLsbD j = decide (j = i % 8) := by
  have h8 : i % 8 < 8 := Nat.mod_lt _ (by omega)
  simp only [indexMask, BitVec.getLsbD_shiftLeft, BitVec.getLsbD_one]
  by_cases hj : j = i % 8
  · subst hj; simp [h8]
  · by_cases hlt : j < i % 8
    · simp [hlt, hj]
    · have hne : j - i % 8 ≠ 0 := by omega
      simp [hj, hne]

/-- A byte under a mask of `index_mask` is not 0 exactly when the bit is set (R65). -/
theorem masked_ne_zero (x : Byte) (i : Nat) : (x &&& (indexMask i).2 != 0x00#8) = x.getLsbD (i % 8) := by
  have h8 : i % 8 < 8 := Nat.mod_lt _ (by omega)
  rw [Bool.eq_iff_iff]
  simp only [bne_iff_ne, ne_eq]
  constructor
  · intro h
    by_contra hbit
    apply h
    apply BitVec.eq_of_getLsbD_eq
    intro k hk
    rw [BitVec.getLsbD_and, indexMask_snd_getLsbD]
    by_cases hki : k = i % 8
    · subst hki; simpa using hbit
    · simp [hki]
  · intro hbit h
    have := congrArg (fun y => BitVec.getLsbD y (i % 8)) h
    simp [BitVec.getLsbD_and, indexMask_snd_getLsbD, hbit] at this

theorem inBuf_iff (n i : Nat) : ¬(n ≤ i / 8) ↔ i < 8 * n := by omega

/-- A bit in range is bit `i mod 8` of byte `i div 8` (R64, R65). -/
theorem bufReadBit_of_lt (s : State) (i : Nat) (h : i < 8 * s.cfg.len) :
    bufReadBit s i = (s.buf.getD (i / 8) 0x00#8).getLsbD (i % 8) := by
  have : ¬(s.cfg.len ≤ i / 8) := (inBuf_iff _ _).mpr h
  simp only [bufReadBit, indexMask_fst, if_neg this, masked_ne_zero]

/-- A bit out of range reads 0 (R65). -/
theorem bufReadBit_of_ge (s : State) (i : Nat) (h : 8 * s.cfg.len ≤ i) : bufReadBit s i = false := by
  have : s.cfg.len ≤ i / 8 := by omega
  simp [bufReadBit, indexMask_fst, this]

/-- A bit read looks at LEN and BUF alone. -/
theorem bufReadBit_congr (s t : State) (hc : t.cfg.len = s.cfg.len) (hb : t.buf = s.buf) (i : Nat) :
    bufReadBit t i = bufReadBit s i := by simp [bufReadBit, hc, hb]

/-- A bit write out of range does nothing (R66). -/
theorem bufWriteBit_of_ge (s : State) (i : Nat) (a : Bool) (h : 8 * s.cfg.len ≤ i) : bufWriteBit s i a = s := by
  have : s.cfg.len ≤ i / 8 := by omega
  simp [bufWriteBit, indexMask_fst, this]

/-- A bit write changes BUF alone (R66). -/
theorem bufWriteBit_frame (s : State) (i : Nat) (a : Bool) :
    bufWriteBit s i a = { s with buf := (bufWriteBit s i a).buf } := by
  unfold bufWriteBit; split <;> rfl

/-- A bit write keeps the sizes of the files. -/
theorem bufWriteBit_sized (s : State) (i : Nat) (a : Bool) (hs : FilesSized s) : FilesSized (bufWriteBit s i a) := by
  unfold bufWriteBit
  split
  · exact hs
  · exact ⟨hs.1, hs.2.1, by simpa using hs.2.2.1, hs.2.2.2⟩

/-- After a bit write the bit written reads as the value if it is in range, and every other bit as before (R66). -/
theorem bufReadBit_bufWriteBit (s : State) (i j : Nat) (a : Bool) (hs : FilesSized s) :
    bufReadBit (bufWriteBit s i a) j = if j = i ∧ j < 8 * s.cfg.len then a else bufReadBit s j := by
  by_cases hi : i < 8 * s.cfg.len
  case neg =>
    rw [bufWriteBit_of_ge s i a (by omega)]
    have : ¬(j = i ∧ j < 8 * s.cfg.len) := by omega
    rw [if_neg this]
  case pos =>
    have hc : (bufWriteBit s i a).cfg = s.cfg := by rw [bufWriteBit_frame]
    by_cases hj : j < 8 * s.cfg.len
    case neg =>
      rw [bufReadBit_of_ge _ _ (by rw [hc]; omega), bufReadBit_of_ge _ _ (by omega), if_neg (by omega)]
    case pos =>
      have hlen : i / 8 < s.buf.length := by rw [hs.2.2.1]; omega
      rw [bufReadBit_of_lt _ _ (by rw [hc]; exact hj), bufReadBit_of_lt _ _ hj]
      have hbuf : (bufWriteBit s i a).buf = s.buf.modify (i / 8) fun x =>
          if a then x ||| (indexMask i).2 else x &&& ~~~(indexMask i).2 := by
        have : ¬(s.cfg.len ≤ i / 8) := (inBuf_iff _ _).mpr hi
        simp [bufWriteBit, indexMask_fst, this]
      rw [hbuf, getD_modify _ _ _ _ _ hlen]
      have h8 : j % 8 < 8 := Nat.mod_lt _ (by omega)
      by_cases hd : j / 8 = i / 8
      · have hij : j = i ↔ j % 8 = i % 8 := by omega
        have hmask : ∀ x : Byte, (if a then x ||| (indexMask i).2 else x &&& ~~~(indexMask i).2).getLsbD (j % 8) =
            if j % 8 = i % 8 then a else x.getLsbD (j % 8) := by
          intro x
          cases a
          · simp only [Bool.false_eq_true, if_false, BitVec.getLsbD_and, BitVec.getLsbD_not, indexMask_snd_getLsbD]
            by_cases hm : j % 8 = i % 8 <;> simp [hm, h8]
          · simp only [if_true, BitVec.getLsbD_or, indexMask_snd_getLsbD]
            by_cases hm : j % 8 = i % 8 <;> simp [hm]
        rw [if_pos hd, hmask, hd]
        by_cases hm : j % 8 = i % 8
        · rw [if_pos hm, if_pos ⟨hij.mpr hm, hj⟩]
        · rw [if_neg hm, if_neg fun h => hm (hij.mp h.1)]
      · rw [if_neg hd, if_neg fun h => hd (by rw [h.1])]

/-! ### Key space (R147) -/

theorem sample_length (s : State) : (sample s).length = s.cfg.keyCount := by simp [sample]

theorem sample_getD (s : State) (k : Nat) (h : k < s.cfg.keyCount) : (sample s).getD k false = s.keyin.getD k false := by
  simp [sample, List.getD_eq_getElem?_getD, h]

/-- A report updates the latch of its key alone. -/
theorem latch_reportKey (s : State) (k j : Nat) (b : Bool) (hs : FilesSized s) (h : k < s.cfg.keyCount) :
    latch (reportKey k b s) j = if j = k then b else latch s j := by
  simp only [latch, reportKey_prev]
  exact getD_set_bool _ _ _ _ _ (by rw [hs.2.2.2]; exact h)

/-- A report keeps the sizes of the files. -/
theorem reportKey_sized (s : State) (k : Nat) (b : Bool) (hs : FilesSized s) : FilesSized (reportKey k b s) :=
  ⟨hs.1, hs.2.1, hs.2.2.1, by simpa using hs.2.2.2⟩

/-- KRST keeps the sizes of the files. -/
theorem krstBody_sized (s : State) (hs : FilesSized s) : FilesSized (krstBody s) :=
  ⟨hs.1, hs.2.1, hs.2.2.1, by simp [sample_length]⟩

/-- The key of an event with a key index below 256 is that index. -/
theorem keyEventOf_key_toNat (k : Nat) (b : Bool) (h : k < 256) : (keyEventOf k b).key.toNat = k := by
  simp [keyEventOf, Nat.mod_eq_of_lt h]

end Sys2Proof.Machine
end

