-- ==== Sys2Proof/Laws/Bodies.lean ====
section
/-! SUPPORT. One lemma per operation body that says once everything it does; later proofs cite these and do not unfold a body. -/

namespace Sys2Proof.Machine

/-! ### Progress -/

@[simp] theorem progressState_running (s : State) : progressState (.running s) = s := rfl
@[simp] theorem progressState_halted (s : State) : progressState (.halted s) = s := rfl
@[simp] theorem progressState_raise (c : FaultCause) (s : State) : progressState (raise c s) = enterFault c s := rfl
@[simp] theorem andThen_running (s : State) (f : State → Progress) : andThen (.running s) f = f s := rfl
@[simp] theorem andThen_raise (c : FaultCause) (s : State) (f : State → Progress) : andThen (raise c s) f = raise c s := rfl

/-- Every operation answers a next state: the state its body reached. -/
theorem exec_next (i : Instr) (s : State) : ∃ t, exec i s = .next t := by cases i <;> exact ⟨_, rfl⟩

/-! ### Pattern Store -/

theorem patWrite_of_in (s : State) (v st : Nat) (a : Bool) (h : InPattern s.cfg v st) :
    patWrite s v st a = .running (setFlag s v st a) := if_pos h

theorem patWrite_of_out (s : State) (v st : Nat) (a : Bool) (h : ¬InPattern s.cfg v st) :
    patWrite s v st a = raise .patternIndex s := if_neg h

theorem pgetBody_of_in (s : State) (v st : Nat) (h : InPattern s.cfg v st) :
    pgetBody v st s = .running (setR (patFlag s v st) s) := by simp only [pgetBody, patRead, if_pos h]

theorem pgetBody_of_out (s : State) (v st : Nat) (h : ¬InPattern s.cfg v st) :
    pgetBody v st s = raise .patternIndex s := by simp only [pgetBody, patRead, if_neg h]

/-! ### Bit Driver -/

/-- The three events of one presentation position (R135). -/
def bitEvents (b : Bool) : List LineEvent := [if b then .d1 else .d0, .c1, .c0]

theorem presentBit_eq (s : State) (b : Bool) :
    presentBit s b = { s with ledData := b, ledClk := false, ledTrace := s.ledTrace ++ bitEvents b } := by
  simp [presentBit, driveClk, driveData, bitEvents]

theorem foldl_presentBit (bits : List Bool) (s : State) :
    bits.foldl presentBit s =
      { s with
        ledData := bits.getLastD s.ledData
        ledClk := if bits = [] then s.ledClk else false
        ledTrace := s.ledTrace ++ bits.flatMap bitEvents } := by
  induction bits generalizing s with
  | nil => simp
  | cons b bs ih =>
    rw [List.foldl_cons, ih, presentBit_eq]
    simp only [List.getLastD_cons, List.flatMap_cons, List.append_assoc, reduceCtorEq, if_false, ite_self]

/-- The events of one FLUSH (R135). -/
def flushEvents (frame : List Bool) : List LineEvent := frame.flatMap bitEvents ++ [.s1, .s0]

theorem flushEvents_length (frame : List Bool) : (flushEvents frame).length = 3 * frame.length + 2 := by
  simp only [flushEvents, List.length_append, List.length_flatMap]
  have : (frame.map fun b => (bitEvents b).length) = List.replicate frame.length 3 := by
    rw [List.eq_replicate_iff]; simp [bitEvents]
  rw [this]; simp; omega

theorem frameOf_length (s : State) : (frameOf s).length = 8 * s.cfg.len := by simp [frameOf]

/-- All that a FLUSH does (R135). -/
theorem flushBody_eq (s : State) :
    flushBody s =
      { s with
        ledData := (frameOf s).getLastD s.ledData
        ledClk := if frameOf s = [] then s.ledClk else false
        ledStrobe := false
        ledTrace := s.ledTrace ++ flushEvents (frameOf s) } := by
  rw [flushBody, foldl_presentBit]
  simp [pulseStrobe, driveStrobe, flushEvents, List.append_assoc]

/-- A frame looks at the configuration and BUF alone. -/
theorem frameOf_congr (s t : State) (hc : t.cfg = s.cfg) (hb : t.buf = s.buf) : frameOf t = frameOf s := by
  simp only [frameOf, hc]
  exact List.map_congr_left fun j _ => bufReadBit_congr s t (by rw [hc]) hb _

/-! ### Frames in a list of line events (R136) -/

/-- The level of LED_DATA after a list of events. -/
def levelAfter (level : Bool) : List LineEvent → Bool
  | [] => level
  | .d0 :: es => levelAfter false es
  | .d1 :: es => levelAfter true es
  | .c1 :: es => levelAfter level es
  | .c0 :: es => levelAfter level es
  | .s1 :: es => levelAfter level es
  | .s0 :: es => levelAfter level es

/-- The levels at the C1 events of a list of events, after those before it. -/
def clockedAfter (level : Bool) (clocked : List Bool) : List LineEvent → List Bool
  | [] => clocked
  | .d0 :: es => clockedAfter false clocked es
  | .d1 :: es => clockedAfter true clocked es
  | .c1 :: es => clockedAfter level (clocked ++ [level]) es
  | .c0 :: es => clockedAfter level clocked es
  | .s1 :: es => clockedAfter level clocked es
  | .s0 :: es => clockedAfter level clocked es

theorem framesFrom_append (n : Nat) (xs ys : List LineEvent) (level : Bool) (clocked : List Bool) :
    framesFrom n level clocked (xs ++ ys) =
      framesFrom n level clocked xs ++ framesFrom n (levelAfter level xs) (clockedAfter level clocked xs) ys := by
  induction xs generalizing level clocked with
  | nil => rfl
  | cons e es ih => cases e <;> simp [framesFrom, levelAfter, clockedAfter, ih]

theorem framesFrom_bits (n : Nat) (bits : List Bool) (rest : List LineEvent) (level : Bool) (clocked : List Bool) :
    framesFrom n level clocked (bits.flatMap bitEvents ++ rest) =
      framesFrom n (bits.getLastD level) (clocked ++ bits) rest := by
  induction bits generalizing level clocked with
  | nil => simp
  | cons b bs ih =>
    rw [List.getLastD_cons, List.flatMap_cons, List.append_assoc]
    cases b <;> simp only [bitEvents, Bool.false_eq_true, if_false, if_true, List.cons_append, List.nil_append, framesFrom,
      ih, List.append_assoc]

/-- The events of one FLUSH of `n` bits hold one frame: the levels presented, whatever came before (R136). -/
theorem framesFrom_flush (frame : List Bool) (level : Bool) (clocked : List Bool) :
    framesFrom frame.length level clocked (flushEvents frame) = [frame] := by
  rw [flushEvents, framesFrom_bits]
  simp [framesFrom]

/-- A list of events that grows by one flush holds one frame more. -/
theorem framesFrom_append_flush (n : Nat) (xs : List LineEvent) (frame : List Bool) (level : Bool) (clocked : List Bool)
    (h : frame.length = n) :
    framesFrom n level clocked (xs ++ flushEvents frame) = framesFrom n level clocked xs ++ [frame] := by
  subst h; rw [framesFrom_append, framesFrom_flush]

/-! ### Keypad Scanner -/

/-- The least changed key: it is a key, it has changed, and no lesser key has (R147). -/
theorem changedKey_some (s : State) (k : Nat) (h : changedKey s = some k) :
    k < s.cfg.keyCount ∧ (sample s).getD k false ≠ latch s k ∧ ∀ j < k, (sample s).getD j false = latch s j := by
  obtain ⟨hp, as, bs, heq, hall⟩ := List.find?_eq_some_iff_append.mp h
  have hlen : as.length < s.cfg.keyCount := by
    have := congrArg List.length heq; simp at this; omega
  have hk : k = as.length := by
    have h1 : (List.range s.cfg.keyCount)[as.length]? = some k := by rw [heq]; simp
    have h2 : (List.range s.cfg.keyCount)[as.length]? = some as.length := by simp [hlen]
    rw [h2] at h1; exact (Option.some.inj h1).symm
  refine ⟨hk ▸ hlen, by simpa using hp, fun j hj => ?_⟩
  have hmem : j ∈ as := by
    have h1 : (List.range s.cfg.keyCount)[j]? = some j := by simp [show j < s.cfg.keyCount by omega]
    rw [heq, List.getElem?_append_left (by omega)] at h1
    exact List.mem_of_getElem? h1
  simpa using hall j hmem

/-- No key has changed (R147). -/
theorem changedKey_none (s : State) (h : changedKey s = none) :
    ∀ k < s.cfg.keyCount, (sample s).getD k false = latch s k := by
  intro k hk
  simpa using List.find?_eq_none.mp h k (List.mem_range.mpr hk)

/-- All that a KPOLL does: it reports the least changed key, or clears EVT when no key has changed (R147). -/
theorem kpollBody_cases (s : State) :
    (∃ k, k < s.cfg.keyCount ∧ (sample s).getD k false ≠ latch s k ∧ (∀ j < k, (sample s).getD j false = latch s j) ∧
      kpollBody s = reportKey k ((sample s).getD k false) s) ∨
    ((∀ k < s.cfg.keyCount, (sample s).getD k false = latch s k) ∧ kpollBody s = clearEvent s) := by
  cases h : changedKey s with
  | some k =>
    obtain ⟨h1, h2, h3⟩ := changedKey_some s k h
    exact .inl ⟨k, h1, h2, h3, by simp [kpollBody, h]⟩
  | none => exact .inr ⟨changedKey_none s h, by simp [kpollBody, h]⟩

/-- A KPOLL changes PREV and EVT alone (R24). -/
theorem kpollBody_frame (s : State) :
    kpollBody s = { s with prev := (kpollBody s).prev, evt := (kpollBody s).evt } := by
  obtain ⟨k, -, -, -, h⟩ | ⟨-, h⟩ := kpollBody_cases s <;> rw [h] <;> rfl

/-- KPOLL keeps the sizes of the files. -/
theorem kpollBody_sized (s : State) (hs : FilesSized s) : FilesSized (kpollBody s) := by
  obtain ⟨k, -, -, -, h⟩ | ⟨-, h⟩ := kpollBody_cases s <;> rw [h]
  · exact reportKey_sized _ _ _ hs
  · exact hs

/-! ### Tempo Scheduler -/

theorem tadvBody_of_zero (s : State) (h : s.tempo = 0#16) : tadvBody s = raise .tempoZero s := if_pos h

theorem tadvBody_of_due (s : State) (h : s.tempo ≠ 0#16) (hd : 15000 / s.tempo.toNat ≤ (s.time - s.last).toNat) :
    tadvBody s = .running (takeBoundary s) := by
  have : boundaryDue s = true := decide_eq_true hd
  simp [tadvBody, h, this]

theorem tadvBody_of_early (s : State) (h : s.tempo ≠ 0#16) (hd : (s.time - s.last).toNat < 15000 / s.tempo.toNat) :
    tadvBody s = .running (noBoundary s) := by
  have : boundaryDue s = false := decide_eq_false (Nat.not_le.mpr hd)
  simp [tadvBody, h, this]

/-- All that TADV's body does: the fault TEMPO_ZERO, a step boundary, or ADV cleared (R162, R163). -/
theorem tadvBody_cases (s : State) :
    (s.tempo = 0#16 ∧ tadvBody s = raise .tempoZero s) ∨
    (s.tempo ≠ 0#16 ∧ 15000 / s.tempo.toNat ≤ (s.time - s.last).toNat ∧ tadvBody s = .running (takeBoundary s)) ∨
    (s.tempo ≠ 0#16 ∧ (s.time - s.last).toNat < 15000 / s.tempo.toNat ∧ tadvBody s = .running (noBoundary s)) := by
  by_cases h : s.tempo = 0#16
  · exact .inl ⟨h, tadvBody_of_zero s h⟩
  · by_cases hd : 15000 / s.tempo.toNat ≤ (s.time - s.last).toNat
    · exact .inr (.inl ⟨h, hd, tadvBody_of_due s h hd⟩)
    · exact .inr (.inr ⟨h, Nat.not_le.mp hd, tadvBody_of_early s h (Nat.not_le.mp hd)⟩)

/-! ### Note Dispatcher -/

theorem ndispBody_of_in (s : State) (st : Nat) (h : st < s.cfg.steps) :
    ndispBody st s = .running (emitNotes ((activeVoices s st).map (triggerOf s.cfg)) s) := if_pos h

theorem ndispBody_of_out (s : State) (st : Nat) (h : ¬st < s.cfg.steps) : ndispBody st s = raise .patternIndex s := if_neg h

/-! ### Control Loop -/

/-- The playhead is a step of the pattern (R167). -/
theorem playhead_lt (s : State) (h : 1 ≤ s.cfg.steps) : playhead s < s.cfg.steps := Nat.mod_lt _ h

/-- All that ADVANCE does: the fault TEMPO_ZERO, a step boundary with the old playhead's bit cleared, or ADV cleared (R189). -/
theorem advance_cases (s : State) :
    (s.tempo = 0#16 ∧ exec .advance s = .next (enterFault .tempoZero s)) ∨
    (s.tempo ≠ 0#16 ∧ 15000 / s.tempo.toNat ≤ (s.time - s.last).toNat ∧
      exec .advance s = .next (bufWriteBit (takeBoundary s) (playhead s) false)) ∨
    (s.tempo ≠ 0#16 ∧ (s.time - s.last).toNat < 15000 / s.tempo.toNat ∧ exec .advance s = .next (noBoundary s)) := by
  obtain ⟨h, hb⟩ | ⟨h, hd, hb⟩ | ⟨h, hd, hb⟩ := tadvBody_cases s
  · exact .inl ⟨h, by simp [exec, execAdvance, hb, complete]⟩
  · exact .inr (.inl ⟨h, hd, by simp [exec, execAdvance, hb, complete, clearEnded, ledBit]⟩)
  · exact .inr (.inr ⟨h, hd, by simp [exec, execAdvance, hb, complete, clearEnded]⟩)

/-- All that INPUT does after its KPOLL: nothing without an event, the write of one flag of voice 0, or the fault PATTERN_INDEX
(R190). -/
theorem input_cases (s : State) :
    ((kpollBody s).evt.valid = false ∧ exec .input s = .next (kpollBody s)) ∨
    ((kpollBody s).evt.valid = true ∧ InPattern s.cfg 0 (inputStep (kpollBody s)) ∧
      exec .input s = .next (setFlag (kpollBody s) 0 (inputStep (kpollBody s)) (kpollBody s).evt.pressed)) ∨
    ((kpollBody s).evt.valid = true ∧ ¬InPattern s.cfg 0 (inputStep (kpollBody s)) ∧
      exec .input s = .next (enterFault .patternIndex (kpollBody s))) := by
  have hc : (kpollBody s).cfg = s.cfg := by rw [kpollBody_frame]
  by_cases hv : (kpollBody s).evt.valid = true
  · by_cases hp : InPattern s.cfg 0 (inputStep (kpollBody s))
    · exact .inr (.inl ⟨hv, hp, by
        simp only [exec, execInput, applyEvent, hv, if_true, inputVoice, complete]
        rw [patWrite_of_in _ _ _ _ (by rw [hc]; exact hp)]; rfl⟩)
    · exact .inr (.inr ⟨hv, hp, by
        simp only [exec, execInput, applyEvent, hv, if_true, inputVoice, complete]
        rw [patWrite_of_out _ _ _ _ (by rw [hc]; exact hp)]; rfl⟩)
  · exact .inl ⟨by simpa using hv, by simp [exec, execInput, applyEvent, hv, complete]⟩

/-- All that RENDER does: one bit write, then the flush (R187). -/
theorem render_eq (s : State) : exec .render s = .next (flushBody (bufWriteBit s (playhead s) true)) := rfl

end Sys2Proof.Machine
end

