-- ==== Sys2Proof/Laws/Encoding.lean ====
section
/-! SUPPORT. The opcode map (R95): no two rows overlap, so decoding is what the selected row says; and the fields of an assembled
word (R91, R96). -/

namespace Sys2Proof

/-! ### The opcode map -/

/-- No two rows of the opcode map agree where both masks look, so a word selects at most one row (R95). -/
theorem rows_disjoint : ∀ r ∈ opcodeMap, ∀ r' ∈ opcodeMap, r.pattern &&& r'.mask = r'.pattern &&& r.mask → r = r' := by
  decide

theorem selects_unique (w : Word) (r r' : OpRow) (hr : r ∈ opcodeMap) (hr' : r' ∈ opcodeMap)
    (h : w &&& r.mask = r.pattern) (h' : w &&& r'.mask = r'.pattern) : r = r' := by
  refine rows_disjoint r hr r' hr' ?_
  rw [← h, ← h', BitVec.and_assoc, BitVec.and_assoc, BitVec.and_comm r.mask]

/-- A word that selects a row decodes to that row's operation (R96). -/
theorem decode_of_selects (w : Word) (row : OpRow) (hrow : row ∈ opcodeMap) (h : w &&& row.mask = row.pattern) :
    decode w = .ok (operandsOf row.mnemonic w) := by
  unfold decode
  cases hf : opcodeMap.find? fun row => row.selects w with
  | none => exact absurd (by simp [OpRow.selects, h]) (List.find?_eq_none.mp hf row hrow)
  | some r =>
    have hs : w &&& r.mask = r.pattern := by simpa [OpRow.selects] using List.find?_some hf
    rw [selects_unique w r row (List.mem_of_find?_eq_some hf) hrow hs h]

/-- A word that selects no row is illegal (R95, R97). -/
theorem decode_of_no_row (w : Word) (h : ∀ row ∈ opcodeMap, w &&& row.mask ≠ row.pattern) :
    decode w = .error (illegalCase w) := by
  unfold decode
  have : (opcodeMap.find? fun row => row.selects w) = none :=
    List.find?_eq_none.mpr fun row hrow => by simpa [OpRow.selects] using h row hrow
  rw [this]

/-- A legal word selects a row, and its operation is that row's (R96). -/
theorem decode_ok_row (w : Word) (i : Instr) (h : decode w = .ok i) :
    ∃ row ∈ opcodeMap, w &&& row.mask = row.pattern ∧ i = operandsOf row.mnemonic w := by
  by_cases hr : ∃ row ∈ opcodeMap, w &&& row.mask = row.pattern
  · obtain ⟨row, hrow, hs⟩ := hr
    rw [decode_of_selects w row hrow hs] at h
    exact ⟨row, hrow, hs, (Except.ok.inj h).symm⟩
  · rw [decode_of_no_row w fun row hrow hs => hr ⟨row, hrow, hs⟩] at h
    cases h

/-! ### The two bytes of a word -/

/-- Bits 15 to 8 of a word: OP, A and VC. -/
def hiByte (w : Word) : Byte := w.extractLsb' 8 8

/-- Bits 7 to 0 of a word: IDX. -/
def loByte (w : Word) : Byte := w.extractLsb' 0 8

theorem hiByte_toNat (w : Word) : (hiByte w).toNat = w.toNat / 256 := by
  have := w.isLt
  simp only [hiByte, BitVec.extractLsb'_toNat, Nat.shiftRight_eq_div_pow]; omega

theorem loByte_toNat (w : Word) : (loByte w).toNat = w.toNat % 256 := by
  simp [loByte, BitVec.extractLsb'_toNat]

theorem word_ext (w w' : Word) (hh : hiByte w = hiByte w') (hl : loByte w = loByte w') : w = w' := by
  apply BitVec.eq_of_toNat_eq
  have h1 := congrArg BitVec.toNat hh
  have h2 := congrArg BitVec.toNat hl
  rw [hiByte_toNat, hiByte_toNat] at h1
  rw [loByte_toNat, loByte_toNat] at h2
  omega

/-- A word selects a row exactly when its two bytes do. -/
theorem selects_iff_bytes (w p m : Word) :
    w &&& m = p ↔ hiByte w &&& hiByte m = hiByte p ∧ loByte w &&& loByte m = loByte p := by
  have hh : hiByte (w &&& m) = hiByte w &&& hiByte m := by simp [hiByte, BitVec.extractLsb'_and]
  have hl : loByte (w &&& m) = loByte w &&& loByte m := by simp [loByte, BitVec.extractLsb'_and]
  rw [← hh, ← hl]
  exact ⟨fun h => ⟨by rw [h], by rw [h]⟩, fun h => word_ext _ _ h.1 h.2⟩

theorem opField_toNat (w : Word) : (opField w).toNat = (hiByte w).toNat / 16 := by
  have := w.isLt
  rw [hiByte_toNat]
  simp only [opField, BitVec.extractLsb'_toNat, Nat.shiftRight_eq_div_pow]; omega

theorem aField_hiByte (w : Word) : aField w = (hiByte w).getLsbD 3 := by
  simp [aField, hiByte]

theorem vcField_hiByte (w : Word) : vcField w = (hiByte w).toNat % 8 := by
  rw [hiByte_toNat]
  simp only [vcField, BitVec.extractLsb'_toNat, Nat.shiftRight_eq_div_pow]

theorem idxField_loByte (w : Word) : idxField w = (loByte w).toNat := rfl

theorem vcField_lt (w : Word) : vcField w < 8 := by unfold vcField; exact BitVec.isLt _

theorem idxField_lt (w : Word) : idxField w < 256 := by unfold idxField; exact BitVec.isLt _

theorem aField_toNat (w : Word) : (aField w).toNat = w.toNat / 2048 % 2 := by
  simp only [aField, BitVec.getLsbD, Nat.testBit_eq_decide_div_mod_eq]
  rcases Nat.mod_two_eq_zero_or_one (w.toNat / 2 ^ 11) with h | h
  · rw [h]; simpa using h.symm
  · rw [h]; simpa using h.symm

/-- A word is made of its four fields (R91). -/
theorem word_toNat (w : Word) :
    w.toNat = (opField w).toNat * 4096 + (aField w).toNat * 2048 + vcField w * 256 + idxField w := by
  have hw := w.isLt
  rw [aField_toNat, opField_toNat, vcField_hiByte, idxField_loByte, hiByte_toNat, loByte_toNat]
  omega

/-! ### Assembled words (R96) -/

/-- The shifts and ors of R96 put the four fields side by side. -/
theorem assemble_toNat (op vc idx : Nat) (a : Bool) (ho : op < 16) (hv : vc < 8) (hi : idx < 256) :
    (assemble op a vc idx).toNat = op * 4096 + a.toNat * 2048 + vc * 256 + idx := by
  have ha : a.toNat < 2 := by cases a <;> decide
  have or_low : ∀ (x k n : Nat), n < 2 ^ k → x * 2 ^ k ||| n = x * 2 ^ k + n := fun x k n h => by
    rw [← Nat.shiftLeft_eq, Nat.shiftLeft_add_eq_or_of_lt h]
  have o1 := or_low op 12 (a.toNat * 2048) (by omega)
  have o2 := or_low (op * 2 + a.toNat) 11 (vc * 256) (by omega)
  have o3 := or_low (op * 16 + a.toNat * 8 + vc) 8 idx (by omega)
  rw [show (op * 2 + a.toNat) * 2 ^ 11 = op * 2 ^ 12 + a.toNat * 2048 by omega, ← o1] at o2
  rw [show (op * 16 + a.toNat * 8 + vc) * 2 ^ 8 = op * 2 ^ 12 + a.toNat * 2048 + vc * 256 by omega, ← o1, ← o2] at o3
  simp only [assemble, BitVec.toNat_or, BitVec.toNat_shiftLeft, BitVec.toNat_ofNat, Nat.shiftLeft_eq]
  rw [Nat.mod_eq_of_lt (show op < 2 ^ 16 by omega), Nat.mod_eq_of_lt (show a.toNat < 2 ^ 16 by omega),
    Nat.mod_eq_of_lt (show vc < 2 ^ 16 by omega), Nat.mod_eq_of_lt (show idx < 2 ^ 16 by omega),
    Nat.mod_eq_of_lt (show op * 2 ^ 12 < 2 ^ 16 by omega), Nat.mod_eq_of_lt (show a.toNat * 2 ^ 11 < 2 ^ 16 by omega),
    Nat.mod_eq_of_lt (show vc * 2 ^ 8 < 2 ^ 16 by omega)]
  rw [show a.toNat * 2 ^ 11 = a.toNat * 2048 by omega, show vc * 2 ^ 8 = vc * 256 by omega, o3, o2, o1]
  omega

/-- The fields of an assembled word are the numbers it was assembled from. -/
theorem assemble_fields (op vc idx : Nat) (a : Bool) (ho : op < 16) (hv : vc < 8) (hi : idx < 256) :
    (opField (assemble op a vc idx)).toNat = op ∧ aField (assemble op a vc idx) = a ∧
      vcField (assemble op a vc idx) = vc ∧ idxField (assemble op a vc idx) = idx := by
  have h1 := assemble_toNat op vc idx a ho hv hi
  have h2 := word_toNat (assemble op a vc idx)
  have hvc := vcField_lt (assemble op a vc idx)
  have hix := idxField_lt (assemble op a vc idx)
  have ha : a.toNat < 2 := by cases a <;> decide
  have ha' : (aField (assemble op a vc idx)).toNat < 2 := by cases aField (assemble op a vc idx) <;> decide
  refine ⟨by omega, ?_, by omega, by omega⟩
  have : (aField (assemble op a vc idx)).toNat = a.toNat := by omega
  revert this
  cases a <;> cases aField _ <;> decide

/-- The high byte of an assembled word. -/
theorem hiByte_assemble (op vc idx : Nat) (a : Bool) (ho : op < 16) (hv : vc < 8) (hi : idx < 256) :
    hiByte (assemble op a vc idx) = BitVec.ofNat 8 (op * 16 + a.toNat * 8 + vc) := by
  have ha : a.toNat < 2 := by cases a <;> decide
  apply BitVec.eq_of_toNat_eq
  rw [hiByte_toNat, assemble_toNat op vc idx a ho hv hi, BitVec.toNat_ofNat]; omega

/-- The low byte of an assembled word. -/
theorem loByte_assemble (op vc idx : Nat) (a : Bool) (ho : op < 16) (hv : vc < 8) (hi : idx < 256) :
    loByte (assemble op a vc idx) = BitVec.ofNat 8 idx := by
  have ha : a.toNat < 2 := by cases a <;> decide
  apply BitVec.eq_of_toNat_eq
  rw [loByte_toNat, assemble_toNat op vc idx a ho hv hi, BitVec.toNat_ofNat]; omega

end Sys2Proof
end

