-- ==== Sys2Proof/Laws/Steps.lean ====
section
/-! SUPPORT. What a step can do, said once: it keeps a halted block, stops at a UPC outside ROM, enters ILLEGAL_OP, or runs the
decoded operation (R186). -/

namespace Sys2Proof.Machine

/-- The word at an index of ROM is the word of the operation being executed. -/
theorem currentWord_of_get (s : State) (w : Word) (h : s.cfg.rom[s.upc.toNat]? = some w) : currentWord s = w := by
  simp [currentWord, h]

theorem upc_lt_of_get (s : State) (w : Word) (h : s.cfg.rom[s.upc.toNat]? = some w) :
    s.upc.toNat < s.cfg.rom.length := (List.getElem?_eq_some_iff.mp h).1

theorem fetch_of_ok (s : State) (w : Word) (i : Instr) (h : s.cfg.rom[s.upc.toNat]? = some w) (hd : decode w = .ok i) :
    fetch s = .operation i := by
  simp [fetch, upc_lt_of_get s w h, currentWord_of_get s w h, hd]

theorem fetch_of_error (s : State) (w : Word) (why : IllegalWord) (h : s.cfg.rom[s.upc.toNat]? = some w)
    (hd : decode w = .error why) : fetch s = .illegal why := by
  simp [fetch, upc_lt_of_get s w h, currentWord_of_get s w h, hd]

theorem fetch_of_none (s : State) (h : s.cfg.rom[s.upc.toNat]? = none) : fetch s = .outside := by
  have : ¬s.upc.toNat < s.cfg.rom.length := Nat.not_lt.mpr (List.getElem?_eq_none_iff.mp h)
  simp [fetch, this]

/-- All that a fetch-execute cycle can do (R186, R209). -/
theorem cycle_cases (e : State) :
    (e.fault = true ∧ cycle e = .next e) ∨
    (e.fault = false ∧ e.cfg.rom[e.upc.toNat]? = none ∧ cycle e = .fault .fetchOutsideControlStore) ∨
    (∃ w why, e.fault = false ∧ e.cfg.rom[e.upc.toNat]? = some w ∧ decode w = .error why ∧
      cycle e = .next (enterFault .illegalOp e)) ∨
    (∃ w i t, e.fault = false ∧ e.cfg.rom[e.upc.toNat]? = some w ∧ decode w = .ok i ∧ exec i e = .next t ∧
      cycle e = .next (afterOperation t)) := by
  by_cases hf : e.fault = true
  · exact .inl ⟨hf, by simp [cycle, hf]⟩
  · have hf' : e.fault = false := by simpa using hf
    right
    cases hg : e.cfg.rom[e.upc.toNat]? with
    | none => exact .inl ⟨hf', rfl, by simp [cycle, hf', fetch_of_none e hg]⟩
    | some w =>
      right
      cases hd : decode w with
      | error why => exact .inl ⟨w, why, hf', rfl, hd, by simp [cycle, hf', fetch_of_error e w why hg hd]⟩
      | ok i =>
        obtain ⟨t, ht⟩ := exec_next i e
        exact .inr ⟨w, i, t, hf', rfl, hd, ht, by simp [cycle, hf', fetch_of_ok e w i hg hd, ht, conclude]⟩

/-- All that a step can do: the environment moves, then one cycle. -/
theorem step_cases (s : State) :
    (s.fault = true ∧ step s = .next (environment s)) ∨
    (s.fault = false ∧ s.cfg.rom[s.upc.toNat]? = none ∧ step s = .fault .fetchOutsideControlStore) ∨
    (∃ w why, s.fault = false ∧ s.cfg.rom[s.upc.toNat]? = some w ∧ decode w = .error why ∧
      step s = .next (enterFault .illegalOp (environment s))) ∨
    (∃ w i t, s.fault = false ∧ s.cfg.rom[s.upc.toNat]? = some w ∧ decode w = .ok i ∧
      exec i (environment s) = .next t ∧ step s = .next (afterOperation t)) := cycle_cases (environment s)

/-- After an operation that did not fault UPC has advanced; after a fault nothing has (R186, R207). -/
theorem afterOperation_of_fault (t : State) (h : t.fault = true) : afterOperation t = t := by simp [afterOperation, h]

theorem afterOperation_of_ok (t : State) (h : t.fault = false) : afterOperation t = advanceUpc t := by
  simp [afterOperation, h]

/-! ### Runs -/

theorem run_zero (M : Host.Core) (s : M.State) : M.run 0 s = .next s := rfl

theorem run_succ_of_next (M : Host.Core) (n : Nat) (s u : M.State) (h : M.step s = .next u) :
    M.run (n + 1) s = M.run n u := by
  rw [Host.Core.run, h]

/-- A run of one step more that reaches a next state took a step first. -/
theorem run_succ_next (M : Host.Core) (n : Nat) (s t : M.State) (h : M.run (n + 1) s = .next t) :
    ∃ u, M.step s = .next u ∧ M.run n u = .next t := by
  rw [Host.Core.run] at h
  cases hs : M.step s with
  | next u => rw [hs] at h; exact ⟨u, rfl, h⟩
  | fault r => rw [hs] at h; cases h
  | refused r => rw [hs] at h; cases h

end Sys2Proof.Machine
end

