-- ==== Sys2Proof/Laws/Invariant.lean ====
section
/-! SUPPORT. One lemma per shared operation for the invariant `State.Wf`, the walk of UPC through the canonical control store
(R105), the range of KEYMAP (R8) and the one lit bit of a frame (R192). -/

namespace Sys2Proof.Machine

/-! ### The invariant, operation by operation -/

/-- Fault entry keeps the invariant (R207). -/
theorem enterFault_wf (cause : FaultCause) (s : State) (h : s.Wf) : (enterFault cause s).Wf := by
  obtain ⟨h1, h2, h3, h4, -, h6, h7⟩ := h
  refine ⟨h1, h2, h3, h4, ⟨fun h => absurd h (by simp), fun _ => ⟨?_, rfl⟩⟩, h6, h7⟩
  show causeCode cause ≠ _
  cases cause <;> decide

/-- A flag write keeps the invariant. -/
theorem setFlag_wf (s : State) (v st : Nat) (a : Bool) (h : s.Wf) : (setFlag s v st a).Wf :=
  ⟨h.1, setFlag_sized s v st a h.2.1, h.2.2⟩

/-- A bit write keeps the invariant. -/
theorem bufWriteBit_wf (s : State) (i : Nat) (a : Bool) (h : s.Wf) : (bufWriteBit s i a).Wf := by
  have hz := bufWriteBit_sized s i a h.2.1
  rw [bufWriteBit_frame] at hz ⊢
  exact ⟨h.1, hz, h.2.2⟩

/-- A flush keeps the invariant: it appends `24*LEN + 2` events and leaves the clock and the strobe low (R135). -/
theorem flushBody_wf (s : State) (h : s.Wf) : (flushBody s).Wf := by
  obtain ⟨h1, h2, h3, h4, h5, h6, h7⟩ := h
  rw [flushBody_eq]
  refine ⟨h1, h2, h3, h4, h5, h6, ?_, rfl, ?_⟩
  · simp only [h7.1, ite_self]
  · simp only [List.length_append, flushEvents_length, frameOf_length]
    rw [show 3 * (8 * s.cfg.len) + 2 = 24 * s.cfg.len + 2 by omega, Nat.add_mod_right]
    exact h7.2.2

/-- A key scan keeps the invariant (R147). -/
theorem kpollBody_wf (s : State) (h : s.Wf) : (kpollBody s).Wf := by
  obtain ⟨h1, h2, h3, h4, h5, -, h7⟩ := h
  have hz := kpollBody_sized s h2
  have hk : s.cfg.keyCount ≤ 256 := h1.2.2.2.1.2
  obtain ⟨k, hk', -, -, hb⟩ | ⟨-, hb⟩ := kpollBody_cases s <;> rw [hb] at hz ⊢
  · refine ⟨h1, hz, h3, h4, h5, ⟨fun _ => ?_, fun h => absurd h (by simp [keyEventOf])⟩, h7⟩
    simp only [reportKey_evt, reportKey_cfg]
    rw [keyEventOf_key_toNat _ _ (by omega)]
    exact hk'
  · exact ⟨h1, hz, h3, h4, h5, ⟨fun h => absurd h (by simp [KeyEvent.absent]), fun _ => rfl⟩, h7⟩

/-- The advance of UPC keeps the invariant: UPC stays an index of ROM (R70, R186). -/
theorem advanceUpc_wf (s : State) (h : s.Wf) (hf : s.fault = false) : (advanceUpc s).Wf := by
  obtain ⟨h1, h2, h3, h4, h5, h6, h7⟩ := h
  have hl := h1.2.2.2.2.1.2
  have hls := h1.2.2.2.2.2
  refine ⟨h1, h2, ?_, h4, ⟨h5.1, fun h => absurd h (by simp [hf])⟩, h6, h7⟩
  simp only [advanceUpc_upc, advanceUpc_cfg]
  split
  · rw [BitVec.toNat_add, show (1#8).toNat = 1 from rfl]; omega
  · rw [BitVec.toNat_ofNat]; omega

/-! ### The canonical control store -/

/-- The five places of UPC in the canonical control store, each with its word (R105). -/
theorem canonical_fetch (s : State) (hc : s.cfg.rom = canonicalRom) (h : s.Wf) :
    (s.upc = 0#8 ∧ s.cfg.rom[s.upc.toNat]? = some 0x6000#16) ∨
    (s.upc = 1#8 ∧ s.cfg.rom[s.upc.toNat]? = some 0xA000#16) ∨
    (s.upc = 2#8 ∧ s.cfg.rom[s.upc.toNat]? = some 0xB000#16) ∨
    (s.upc = 3#8 ∧ s.cfg.rom[s.upc.toNat]? = some 0xC000#16) ∨
    (s.upc = 4#8 ∧ s.cfg.rom[s.upc.toNat]? = some 0xD000#16) := by
  have hl : s.upc.toNat < 5 := by have := h.2.2.1; rw [hc] at this; simpa [canonicalRom] using this
  have at_index : ∀ k < 256, s.upc.toNat = k → s.upc = BitVec.ofNat 8 k := fun k hk h => by
    apply BitVec.eq_of_toNat_eq; simp [h, Nat.mod_eq_of_lt hk]
  have : s.upc.toNat = 0 ∨ s.upc.toNat = 1 ∨ s.upc.toNat = 2 ∨ s.upc.toNat = 3 ∨ s.upc.toNat = 4 := by omega
  rcases this with h | h | h | h | h <;> have hu := at_index _ (by omega) h
  · exact .inl ⟨hu, by rw [hc, hu]; rfl⟩
  · exact .inr (.inl ⟨hu, by rw [hc, hu]; rfl⟩)
  · exact .inr (.inr (.inl ⟨hu, by rw [hc, hu]; rfl⟩))
  · exact .inr (.inr (.inr (.inl ⟨hu, by rw [hc, hu]; rfl⟩)))
  · exact .inr (.inr (.inr (.inr ⟨hu, by rw [hc, hu]; rfl⟩)))

/-- In a well-formed configuration KEYMAP sends every key inside the pattern (R8). -/
theorem keyStep_lt (c : Config) (hc : c.WellFormed) (k : Nat) (hk : k < c.keyCount) : keyStep c k < c.steps := by
  have hl := hc.2.1
  unfold keyStep
  rw [List.getD_eq_getElem?_getD, List.getElem?_map, List.getElem?_eq_getElem (by omega)]
  exact of_decide_eq_true (List.all_eq_true.mp hc.2.2.2.2.2.2.2.2.1 _ (List.getElem_mem _))

/-- With FLUSH_ORDER a permutation, a frame of a BUF whose one set bit is `p` has exactly one 1 (R136, R192). -/
theorem frameOf_count (s : State) (hc : s.cfg.WellFormed) (p : Nat) (hp : p < 8 * s.cfg.len)
    (hb : ∀ j < 8 * s.cfg.len, bufReadBit s j = decide (j = p)) : (frameOf s).count true = 1 := by
  have hperm : s.cfg.flushOrder.Perm (List.range (8 * s.cfg.len)) := List.isPerm_iff.mp hc.2.2.2.2.2.2.2.1
  have hl : s.cfg.flushOrder.length = 8 * s.cfg.len := by rw [hperm.length_eq]; simp
  have hframe : frameOf s = s.cfg.flushOrder.map (bufReadBit s) := by
    apply List.ext_getElem
    · simp [frameOf, hl]
    · intro i h1 h2
      have hi : i < s.cfg.flushOrder.length := by simpa using h2
      simp [frameOf, presentedIndex, List.getD_eq_getElem?_getD, hi]
  have hbits : (List.range (8 * s.cfg.len)).map (bufReadBit s) =
      (List.range (8 * s.cfg.len)).map fun j => decide (j = p) :=
    List.map_congr_left fun j hj => hb j (List.mem_range.mp hj)
  have heq : (fun x => x == true) ∘ (fun j : Nat => decide (j = p)) = fun j => j == p := by
    funext j; rw [Bool.eq_iff_iff]; simp only [Function.comp, beq_iff_eq, decide_eq_true_eq]
  rw [hframe, (hperm.map _).count_eq, hbits, List.count_eq_countP, List.countP_map, heq, ← List.count_eq_countP]
  exact List.count_eq_one_of_mem List.nodup_range (List.mem_range.mpr hp)

end Sys2Proof.Machine
end

