-- ==== Sys2Proof/Laws/PerInstr.lean ====
section
/-! SUPPORT. The family EncodeFields, one lemma per constructor of Instr: the word of an operation with operands in range has that
operation's opcode, its operands in the fields its format uses, and 0 in every field it does not use (R92, R96). -/

namespace Sys2Proof.Laws.EncodeFields

/-- OP of an operation (R95). -/
def opcode : Instr → Nat
  | .pset _ _ _ => 0x1
  | .pget _ _ => 0x2
  | .bset _ _ => 0x3
  | .bget _ => 0x4
  | .flush => 0x5
  | .krst => 0x6
  | .kpoll => 0x7
  | .tadv => 0x8
  | .ndisp _ => 0x9
  | .render => 0xA
  | .dispatch => 0xB
  | .advance => 0xC
  | .input => 0xD

/-- The boolean operand of an operation, false where its format has none (R92). -/
def boolean : Instr → Bool
  | .pset _ _ active => active
  | .bset _ value => value
  | .pget _ _ => false
  | .bget _ => false
  | .flush => false
  | .krst => false
  | .kpoll => false
  | .tadv => false
  | .ndisp _ => false
  | .render => false
  | .dispatch => false
  | .advance => false
  | .input => false

/-- The voice operand of an operation, 0 where its format has none (R92). -/
def voice : Instr → Nat
  | .pset voice _ _ => voice
  | .pget voice _ => voice
  | .bset _ _ => 0
  | .bget _ => 0
  | .flush => 0
  | .krst => 0
  | .kpoll => 0
  | .tadv => 0
  | .ndisp _ => 0
  | .render => 0
  | .dispatch => 0
  | .advance => 0
  | .input => 0

/-- The step or bit index operand of an operation, 0 where its format has none (R92). -/
def index : Instr → Nat
  | .pset _ step _ => step
  | .pget _ step => step
  | .bset i _ => i
  | .bget i => i
  | .ndisp step => step
  | .flush => 0
  | .krst => 0
  | .kpoll => 0
  | .tadv => 0
  | .render => 0
  | .dispatch => 0
  | .advance => 0
  | .input => 0

/-- What the word of an operation holds, field by field. -/
def Statement (i : Instr) : Prop :=
  i.WellFormed →
    (opField (encode i)).toNat = opcode i ∧ aField (encode i) = boolean i ∧ vcField (encode i) = voice i ∧
      idxField (encode i) = index i

theorem pset (voice step : Nat) (active : Bool) : Statement (.pset voice step active) := by
  intro h
  simp only [Instr.WellFormed, Instr.wellFormed, Bool.and_eq_true, decide_eq_true_eq] at h
  exact assemble_fields 0x1 voice step active (by omega) h.1 h.2

theorem pget (voice step : Nat) : Statement (.pget voice step) := by
  intro h
  simp only [Instr.WellFormed, Instr.wellFormed, Bool.and_eq_true, decide_eq_true_eq] at h
  exact assemble_fields 0x2 voice step false (by omega) h.1 h.2

theorem bset (i : Nat) (value : Bool) : Statement (.bset i value) := by
  intro h
  simp only [Instr.WellFormed, Instr.wellFormed, decide_eq_true_eq] at h
  exact assemble_fields 0x3 0 i value (by omega) (by omega) h

theorem bget (i : Nat) : Statement (.bget i) := by
  intro h
  simp only [Instr.WellFormed, Instr.wellFormed, decide_eq_true_eq] at h
  exact assemble_fields 0x4 0 i false (by omega) (by omega) h

theorem flush : Statement .flush := fun _ => assemble_fields 0x5 0 0 false (by omega) (by omega) (by omega)

theorem krst : Statement .krst := fun _ => assemble_fields 0x6 0 0 false (by omega) (by omega) (by omega)

theorem kpoll : Statement .kpoll := fun _ => assemble_fields 0x7 0 0 false (by omega) (by omega) (by omega)

theorem tadv : Statement .tadv := fun _ => assemble_fields 0x8 0 0 false (by omega) (by omega) (by omega)

theorem ndisp (step : Nat) : Statement (.ndisp step) := by
  intro h
  simp only [Instr.WellFormed, Instr.wellFormed, decide_eq_true_eq] at h
  exact assemble_fields 0x9 0 step false (by omega) (by omega) h

theorem render : Statement .render := fun _ => assemble_fields 0xa 0 0 false (by omega) (by omega) (by omega)

theorem dispatch : Statement .dispatch := fun _ => assemble_fields 0xb 0 0 false (by omega) (by omega) (by omega)

theorem advance : Statement .advance := fun _ => assemble_fields 0xc 0 0 false (by omega) (by omega) (by omega)

theorem input : Statement .input := fun _ => assemble_fields 0xd 0 0 false (by omega) (by omega) (by omega)

end Sys2Proof.Laws.EncodeFields
end

