-- ==== Sys2Proof/Tests/Slice0.lean ====
section
/-! SUPPORT. Tests of the model against the spec's own vectors (95_test_vectors.md) and its encoding tables, and for every
obligation with hypotheses the states and operands that meet them. -/

namespace Sys2Proof.Tests

open Sys2Proof Sys2Proof.Machine

/-! ### Helpers -/

/-- The next state of an outcome, if it is one. -/
def nextOf : Host.Outcome State Fault Refusal → Option State
  | .next t => some t
  | .fault _ => none
  | .refused _ => none

/-- One field of the state an operation leads to. -/
def after1 {α : Type} (i : Instr) (s : State) (field : State → α) : Option α := (nextOf (exec i s)).map field

/-- The pressed vector of 16 keys in which the keys of a list are closed. -/
def closed (keys : List Nat) : List Bool := (List.range 16).map fun k => keys.contains k

/-- One voice's row of 16 flags with the steps of a list set. -/
def row (steps : List Nat) : List Bool := (List.range 16).map fun k => steps.contains k

/-- The status group F = (FAULT, FCAUSE, FINFO). -/
def statusOf (s : State) : Bool × BitVec 2 × Word := (s.fault, s.fcause, s.finfo)

/-- The reset state with a control store of its own. -/
def withRom (rom : List Word) : State := { State.reset with cfg := { Config.canonical with rom := rom, loopStart := 0 } }

/-- The reset state with bytes in BUF. -/
def withBuf (b0 b1 : Byte) : State := { State.reset with buf := [b0, b1] }

/-- The pattern of T-N-1: the flags (0, 3) and (2, 3). -/
def twoNotes : State := { State.reset with pat := [row [3], row [], row [3], row []] }

/-- The state of T-T-1: a scheduler at TIME. -/
def atTime (time last : Count) (tempo : BitVec 16) : State :=
  { State.reset with time := time, last := last, tempo := tempo }

/-- The reset state at another index of the canonical control store. -/
def atUpc (upc : BitVec 8) : State := { State.reset with upc := upc }

/-- Between RENDER and ADVANCE: step 3 is lit (R192). -/
def litAtThree : State := { withBuf 0x08 0x00 with step := 3#32, upc := 3#8 }

/-- A block halted by an illegal word (T-X-2). -/
def halted : State := { withRom [0x0000#16] with fault := true, fcause := 2#2, finfo := 0x0000#16 }

/-- `KEYMAP[3] = 16`, outside the pattern, and key 3 closed (T-IN-4). -/
def strayKey : State :=
  { State.reset with
    cfg := { Config.canonical with keymap := [0, 1, 2, 16, 4, 5, 6, 7, 8, 9, 10, 11, 12, 13, 14, 15] }
    keyin := closed [3] }

/-- The configuration of T-R-3: one byte of LEDs. -/
def oneByte : State :=
  { State.reset with cfg := { Config.canonical with len := 1, flushOrder := List.range 8 }, buf := [0x00#8] }

/-! ### Well-formed and ill-formed terms (R107, R8) -/

theorem test_wellFormed_accepts :
    (Instr.pset 7 255 true).WellFormed ∧ (Instr.pget 7 255).WellFormed ∧ (Instr.bset 255 false).WellFormed ∧
    (Instr.bget 255).WellFormed ∧ (Instr.ndisp 255).WellFormed ∧ Instr.flush.WellFormed := by decide

theorem test_wellFormed_refuses_voice : ¬(Instr.pset 8 0 true).WellFormed ∧ ¬(Instr.pget 8 0).WellFormed := by decide

theorem test_wellFormed_refuses_index :
    ¬(Instr.pset 0 256 true).WellFormed ∧ ¬(Instr.pget 0 256).WellFormed ∧ ¬(Instr.bset 256 true).WellFormed ∧
    ¬(Instr.bget 256).WellFormed ∧ ¬(Instr.ndisp 256).WellFormed := by decide

theorem test_config_accepts : Canonical Config.canonical := by decide

theorem test_config_refuses_sizes :
    ∀ c ∈ [{ Config.canonical with voices := 0 }, { Config.canonical with voices := 9 },
      { Config.canonical with steps := 0 }, { Config.canonical with steps := 257 },
      { Config.canonical with len := 0 }, { Config.canonical with len := 33 },
      { Config.canonical with keyCount := 0 }, { Config.canonical with keyCount := 257 },
      { Config.canonical with rom := [] }, { Config.canonical with loopStart := 5 }], ¬c.Sized := by decide

/-- Each of these is of legal size; the last three break the three clauses R8 adds to the ranges. -/
theorem test_config_refuses_values :
    ∀ c ∈ [{ Config.canonical with bpm := 0#16 }, { Config.canonical with pitch := [] },
      { Config.canonical with midiChannel := 0 }, { Config.canonical with midiChannel := 17 },
      { Config.canonical with tStrobe := 0 }, { Config.canonical with clkHz := 0 },
      { Config.canonical with keymap := [] }, strayKey.cfg,
      { Config.canonical with flushOrder := List.replicate 16 0 },
      { Config.canonical with rom := [0x6000#16, 0x0000#16] }], c.Sized ∧ ¬c.WellFormed := by decide

/-! ### Decoding and encoding (R95 to R97; 95_test_vectors.md 2.1) -/

theorem test_decode_pset :
    decode 0b0001100000000011#16 = .ok (.pset 0 3 true) ∧ decode 0b0001101000000011#16 = .ok (.pset 2 3 true) ∧
    decode 0b0001110100010000#16 = .ok (.pset 5 16 true) ∧ decode 0b0001011111111111#16 = .ok (.pset 7 255 false) := by
  decide

theorem test_decode_pget :
    decode 0b0010000100000011#16 = .ok (.pget 1 3) ∧ decode 0b0010011111111111#16 = .ok (.pget 7 255) := by decide

theorem test_decode_bset :
    decode 0b0011100000001001#16 = .ok (.bset 9 true) ∧ decode 0b0011000000001001#16 = .ok (.bset 9 false) := by decide

theorem test_decode_bget :
    decode 0b0100000000001001#16 = .ok (.bget 9) ∧ decode 0b0100000011001000#16 = .ok (.bget 200) := by decide

theorem test_decode_ndisp :
    decode 0b1001000000000011#16 = .ok (.ndisp 3) ∧ decode 0b1001000011111111#16 = .ok (.ndisp 255) := by decide

theorem test_decode_no_operand :
    decode 0b0101000000000000#16 = .ok .flush ∧ decode 0b0110000000000000#16 = .ok .krst ∧
    decode 0b0111000000000000#16 = .ok .kpoll ∧ decode 0b1000000000000000#16 = .ok .tadv ∧
    decode 0b1010000000000000#16 = .ok .render ∧ decode 0b1011000000000000#16 = .ok .dispatch ∧
    decode 0b1100000000000000#16 = .ok .advance ∧ decode 0b1101000000000000#16 = .ok .input := by decide

theorem test_decode_reserved :
    ([0x0000#16, 0x0FFF#16, 0xE000#16, 0xF000#16, 0xFFFF#16].all fun w => decode w == .error .reservedOpcode) = true := by
  decide

theorem test_decode_unused_field :
    ([0x2803#16, 0x3903#16, 0x4803#16, 0x4103#16, 0x5001#16, 0x8800#16, 0x9103#16, 0xA001#16, 0xD700#16].all
      fun w => decode w == .error .nonzeroUnusedField) = true := by decide

theorem test_encode_operands :
    encode (.pset 5 16 true) = 0x1D10#16 ∧ encode (.pget 1 3) = 0x2103#16 ∧ encode (.bset 9 true) = 0x3809#16 ∧
    encode (.bget 200) = 0x40C8#16 ∧ encode (.ndisp 3) = 0x9003#16 := by decide

theorem test_encode_no_operand :
    encode .flush = 0x5000#16 ∧ encode .krst = 0x6000#16 ∧ encode .kpoll = 0x7000#16 ∧ encode .tadv = 0x8000#16 ∧
    encode .render = 0xA000#16 ∧ encode .dispatch = 0xB000#16 ∧ encode .advance = 0xC000#16 ∧
    encode .input = 0xD000#16 := by decide

theorem test_decodeTableWord :
    decodeTableWord 16 0x1803 = some (.pset 0 3 true) ∧ decodeTableWord 16 0x2003 = some (.pget 0 3) ∧
    decodeTableWord 16 0x3809 = some (.bset 9 true) ∧ decodeTableWord 16 0x4009 = some (.bget 9) ∧
    decodeTableWord 16 0x9003 = some (.ndisp 3) ∧ decodeTableWord 16 0xD000 = some .input ∧
    decodeTableWord 16 0x2803 = none ∧ decodeTableWord 16 0x0000 = none := by decide

/-- A word of every row runs as the first operation after reset. -/
theorem test_step_runs_every_row :
    ∀ w ∈ [0x1803, 0x2003, 0x3809, 0x4009, 0x5000, 0x6000, 0x7000, 0x8000, 0x9003, 0xA000, 0xB000, 0xC000, 0xD000],
    (nextOf (step (State.reset.withFetchWord 16 w))).isSome = true := by decide

theorem test_step_runs_pset :
    (nextOf (step (State.reset.withFetchWord 16 0x1803))).map (fun t => (t.pat.getD 0 [], t.upc)) =
      some (row [3], 1#8) := by decide

/-! ### Pattern Store (95_test_vectors.md 2.2) -/

/-- T-P-6: last voice, last step. -/
theorem test_pset_last_flag : after1 (.pset 3 15 true) State.reset State.pat = some [row [], row [], row [], row [15]] := by
  decide

/-- T-P-8: step 16 is not reduced to step 0. -/
theorem test_pset_out_of_range :
    after1 (.pset 0 16 true) (withRom [0x1810#16]) statusOf = some (true, 1#2, 0x1810#16) ∧
    after1 (.pset 0 16 true) (withRom [0x1810#16]) State.pat = some [row [], row [], row [], row []] := by decide

/-- T-P-2 and T-P-3. -/
theorem test_pget :
    after1 (.pget 0 3) twoNotes State.r = some true ∧ after1 (.pget 0 4) twoNotes State.r = some false ∧
    after1 (.pget 1 3) twoNotes State.r = some false := by decide

/-- T-P-10: R keeps its value. -/
theorem test_pget_out_of_range :
    after1 (.pget 4 0) { withRom [0x2400#16] with r := true } (fun t => (statusOf t, t.r)) =
      some ((true, 1#2, 0x2400#16), true) := by decide

/-! ### Bit Driver (95_test_vectors.md 2.3, 2.4) -/

/-- T-B-2, T-B-3, T-B-6, T-B-8. -/
theorem test_bset :
    after1 (.bset 9 true) (withBuf 0x08 0x00) State.buf = some [0x08#8, 0x02#8] ∧
    after1 (.bset 3 false) (withBuf 0x08 0x02) State.buf = some [0x00#8, 0x02#8] ∧
    after1 (.bset 15 true) (withBuf 0x00 0x00) State.buf = some [0x00#8, 0x80#8] ∧
    after1 (.bset 0 false) (withBuf 0xFF 0xFF) State.buf = some [0xFE#8, 0xFF#8] := by decide

/-- T-B-4, T-B-5: out of range is ignored, without a fault. -/
theorem test_bset_out_of_range :
    nextOf (exec (.bset 16 true) (withBuf 0x00 0x02)) = some (withBuf 0x00 0x02) ∧
    nextOf (exec (.bset 255 true) (withBuf 0x00 0x02)) = some (withBuf 0x00 0x02) := by decide

/-- T-B-9, T-B-10. -/
theorem test_bget :
    after1 (.bget 3) (withBuf 0x08 0x02) State.r = some true ∧ after1 (.bget 9) (withBuf 0x08 0x02) State.r = some true ∧
    after1 (.bget 4) (withBuf 0x08 0x02) State.r = some false ∧ after1 (.bget 16) (withBuf 0xFF 0xFF) State.r = some false ∧
    after1 (.bget 200) (withBuf 0xFF 0xFF) State.r = some false := by decide

/-- T-F-5: the 26 events of a FLUSH of one byte 0x81. -/
theorem test_flush_events :
    after1 .flush { oneByte with buf := [0x81#8] } State.ledTrace = some
      [.d1, .c1, .c0, .d0, .c1, .c0, .d0, .c1, .c0, .d0, .c1, .c0, .d0, .c1, .c0, .d0, .c1, .c0, .d0, .c1, .c0,
       .d1, .c1, .c0, .s1, .s0] := by decide

/-- T-F-4: the frame of bits 3 and 9 in the order MSB_FIRST_PER_BYTE, `0000100000000010`. -/
theorem test_flush_order :
    after1 .flush
      { withBuf 0x08 0x02 with
        cfg := { Config.canonical with flushOrder := [7, 6, 5, 4, 3, 2, 1, 0, 15, 14, 13, 12, 11, 10, 9, 8] } }
      ledFrames = some [row [4, 14]] := by decide

/-! ### Keypad Scanner (95_test_vectors.md 2.5) -/

/-- T-K-1. -/
theorem test_krst :
    after1 .krst { State.reset with keyin := closed [2, 5] } (fun t => (t.prev, t.evt)) =
      some (closed [2, 5], ⟨false, false, 0#8⟩) := by decide

/-- T-K-2: of two changed keys the lesser is reported. -/
theorem test_kpoll_least :
    after1 .kpoll { State.reset with keyin := closed [4, 9] } (fun t => (t.prev, t.evt)) =
      some (closed [4], ⟨true, true, 4#8⟩) := by decide

/-- T-K-4 and T-K-6: a release; an old event is overwritten. -/
theorem test_kpoll_release :
    after1 .kpoll { State.reset with prev := closed [4, 9], keyin := closed [9] } (fun t => (t.prev, t.evt)) =
      some (closed [9], ⟨true, false, 4#8⟩) ∧
    after1 .kpoll { State.reset with prev := closed [4], keyin := closed [4], evt := ⟨true, true, 4#8⟩ } State.evt =
      some ⟨false, false, 0#8⟩ := by decide

/-! ### Tempo Scheduler (95_test_vectors.md 2.6) -/

/-- T-T-1, T-T-2, T-T-3: before, at and after the interval. -/
theorem test_tadv :
    after1 .tadv (atTime 124 0 120) (fun t => (t.adv, t.step, t.last)) = some (false, 0#32, 0#32) ∧
    after1 .tadv (atTime 125 0 120) (fun t => (t.adv, t.step, t.last)) = some (true, 1#32, 125#32) ∧
    after1 .tadv (atTime 300 125 120) (fun t => (t.adv, t.step, t.last)) = some (true, 1#32, 300#32) := by decide

/-- T-T-8, T-T-9 and T-T-13: TIME wraps; TEMPO 0 faults. -/
theorem test_tadv_wraps_and_faults :
    after1 .tadv (atTime 0x3C 0xFFFFFFC0 120) (fun t => (t.adv, t.last)) = some (false, 0xFFFFFFC0#32) ∧
    after1 .tadv (atTime 0x3D 0xFFFFFFC0 120) (fun t => (t.adv, t.last)) = some (true, 0x3D#32) ∧
    after1 .tadv { withRom [0x8000#16] with tempo := 0#16 } statusOf = some (true, 3#2, 0x8000#16) := by decide

/-! ### Note Dispatcher (95_test_vectors.md 2.7) -/

/-- T-N-1, T-N-2. -/
theorem test_ndisp :
    after1 (.ndisp 3) twoNotes State.noteTrace = some [⟨9#4, 36#7⟩, ⟨9#4, 42#7⟩] ∧
    after1 (.ndisp 4) twoNotes State.noteTrace = some [] := by decide

/-- T-N-5 and T-N-8. -/
theorem test_ndisp_edges :
    after1 (.ndisp 16) { twoNotes with cfg := (withRom [0x9010#16]).cfg } (fun t => (statusOf t, t.noteTrace)) =
      some ((true, 1#2, 0x9010#16), []) ∧
    after1 (.ndisp 0)
      { State.reset with cfg := { Config.canonical with midiChannel := 16 }, pat := [row [], row [0], row [], row []] }
      State.noteTrace = some [⟨15#4, 38#7⟩] := by decide

/-! ### Control Loop (95_test_vectors.md 2.8) -/

/-- T-R-1 and T-R-4: the playhead's bit is set, a stale bit stays. -/
theorem test_render :
    after1 .render { State.reset with step := 19#32 } (fun t => (t.buf, ledFrames t, t.ledTrace.length)) =
      some ([0x08#8, 0x00#8], [row [3]], 50) ∧
    after1 .render (withBuf 0x00 0x02) (fun t => (t.buf, ledFrames t)) = some ([0x01#8, 0x02#8], [row [0, 9]]) := by decide

/-- T-R-3: a playhead beyond the LEDs. -/
theorem test_render_beyond_leds :
    after1 .render { oneByte with step := 9#32 } (fun t => (t.buf, t.ledTrace.length)) = some ([0x00#8], 26) := by decide

/-- T-D-1, T-D-3. -/
theorem test_dispatch :
    after1 .dispatch { State.reset with step := 35#32, pat := [row [3], row [], row [], row []] } State.noteTrace =
      some [⟨9#4, 36#7⟩] ∧
    after1 .dispatch { State.reset with step := 36#32, pat := [row [3], row [], row [], row []] } State.noteTrace =
      some [] := by decide

/-- T-A-1, T-A-2. -/
theorem test_advance :
    after1 .advance { withBuf 0x08 0x00 with step := 3#32, last := 375#32, time := 499#32 }
      (fun t => (t.adv, t.step, t.last, t.buf)) = some (false, 3#32, 375#32, [0x08#8, 0x00#8]) ∧
    after1 .advance { withBuf 0x08 0x00 with step := 3#32, last := 375#32, time := 500#32 }
      (fun t => (t.adv, t.step, t.last, t.buf)) = some (true, 4#32, 500#32, [0x00#8, 0x00#8]) := by decide

/-- T-A-3 and T-A-5: STEP wraps with S = 12; TEMPO 0 faults. -/
theorem test_advance_wraps_and_faults :
    after1 .advance
      { withBuf 0xFF 0xFF with cfg := { Config.canonical with steps := 12 }, step := 0xFFFFFFFF#32, time := 125#32 }
      (fun t => (t.step, t.buf)) = some (0#32, [0xF7#8, 0xFF#8]) ∧
    after1 .advance { withRom [0xC000#16] with tempo := 0#16 } statusOf = some (true, 3#2, 0xC000#16) := by decide

/-- T-IN-1: a press and a release. -/
theorem test_input :
    after1 .input { State.reset with keyin := closed [5] } (fun t => (t.evt, t.prev, t.pat.getD 0 [])) =
      some (⟨true, true, 5#8⟩, closed [5], row [5]) ∧
    after1 .input { State.reset with prev := closed [5], pat := [row [5], row [], row [], row []] }
      (fun t => (t.evt, t.prev, t.pat.getD 0 [])) = some (⟨true, false, 5#8⟩, closed [], row []) := by decide

/-- T-IN-4: KEYMAP outside the pattern; what KPOLL did stays. -/
theorem test_input_faults :
    after1 .input { strayKey with cfg := { strayKey.cfg with rom := [0xD000#16] } } (fun t => (statusOf t, t.evt, t.pat)) =
      some ((true, 1#2, 0xD000#16), ⟨true, true, 3#8⟩, [row [], row [], row [], row []]) := by decide

/-! ### The sequencer (95_test_vectors.md 2.9, Part 3) -/

/-- T-X-2, T-X-3: the illegal word is in FINFO and UPC stays. -/
theorem test_illegal_words :
    (nextOf (step (withRom [0x0000#16]))).map (fun t => (statusOf t, t.upc)) = some ((true, 2#2, 0x0000#16), 0#8) ∧
    (nextOf (step (withRom [0x2803#16]))).map (fun t => (statusOf t, t.upc)) = some ((true, 2#2, 0x2803#16), 0#8) := by
  decide

/-- P1 step 11: UPC wraps to LOOP_START at the end of the control store. -/
theorem test_upc_wraps :
    (nextOf (step { State.reset with upc := 4#8, env := [⟨1#32, []⟩] })).map State.upc = some 1#8 ∧
    (nextOf (step { State.reset with upc := 3#8, env := [⟨1#32, []⟩] })).map State.upc = some 4#8 := by decide

/-- T-X-5: a halted block takes no step, TIME goes on. -/
theorem test_halted :
    (nextOf (step { halted with env := [⟨7#32, []⟩] })).map (fun t => (statusOf t, t.upc, t.time)) =
      some ((true, 2#2, 0x0000#16), 0#8, 7#32) := by decide

/-- T-X-7. -/
theorem test_reset_of_halted : applyReset halted = { withRom [0x0000#16] with fault := false } := by decide

/-! ### Witnesses: the hypotheses of every obligation are met

One theorem per obligation with hypotheses, one part per clause, at the edges of the ranges. -/

theorem test_meets_DecodeAndEncodeAreInverse :
    (∃ row ∈ opcodeMap, 0x1FFF#16 &&& row.mask = row.pattern) ∧
    (∀ row ∈ opcodeMap, 0xE000#16 &&& row.mask ≠ row.pattern) ∧ (Instr.pset 7 255 true).WellFormed ∧
    decode 0x90FF#16 = .ok (.ndisp 255) := by decide

theorem test_meets_OpcodeMapRowsDecode :
    0x1FFF#16 &&& 0xF000#16 = 0x1000#16 ∧ 0x27FF#16 &&& 0xF800#16 = 0x2000#16 ∧ 0x38FF#16 &&& 0xF700#16 = 0x3000#16 ∧
    0x40FF#16 &&& 0xFF00#16 = 0x4000#16 ∧ 0x90FF#16 &&& 0xFF00#16 = 0x9000#16 := by decide

theorem test_meets_IllegalWordsFault :
    decode 0xFFFF#16 = .error .reservedOpcode ∧ decode 0x9101#16 = .error .nonzeroUnusedField ∧
    (withRom [0x2803#16]).fault = false ∧
    (withRom [0x2803#16]).cfg.rom[(withRom [0x2803#16]).upc.toNat]? = some 0x2803#16 ∧
    decode 0x2803#16 = .error .nonzeroUnusedField ∧ Config.canonical.WellFormed ∧ 0xD000#16 ∈ Config.canonical.rom :=
  ⟨by decide, by decide, by decide, by decide, by decide, test_config_accepts.1, by decide⟩

theorem test_meets_StepRunsDecodedInstruction :
    State.reset.fault = false ∧ State.reset.cfg.rom[State.reset.upc.toNat]? = some 0x6000#16 ∧
    decode 0x6000#16 = .ok .krst := by decide

theorem test_meets_EnvironmentMovesInputs :
    let s := { State.reset with time := 0xFFFFFFFF#32, env := [⟨2#32, closed [15]⟩] }
    s.env = ⟨2#32, closed [15]⟩ :: [] ∧ (closed [15]).length = s.cfg.keyCount ∧ (environment s).time = 1#32 ∧
    (environment s).keyin = closed [15] := by decide

theorem test_meets_FetchExecuteCycle :
    halted.fault = true ∧ State.reset.fault = false ∧
    State.reset.cfg.rom[State.reset.upc.toNat]? = some 0x6000#16 ∧ decode 0x6000#16 = .ok .krst ∧
    (withRom [0x0000#16]).cfg.rom[(withRom [0x0000#16]).upc.toNat]? = some 0x0000#16 ∧
    decode 0x0000#16 = .error .reservedOpcode := by decide

theorem test_meets_FetchOutsideRomStops :
    (atUpc 5).fault = false ∧ (atUpc 5).cfg.rom[(atUpc 5).upc.toNat]? = none := by decide

theorem test_meets_HaltedBlockKeepsState : halted.fault = true := by decide

theorem test_meets_StatusGroupIsSticky : halted.fault = true := by decide

theorem test_meets_ControlStoreIsNeverWritten : ∃ t, Sys2Proof.core.run 1 State.reset = .next t := ⟨_, rfl⟩

theorem test_meets_PatternIndexFaults :
    State.reset.cfg.voices ≤ 4 ∧ State.reset.cfg.steps ≤ 16 ∧
    (∃ u, exec .kpoll strayKey = .next u ∧ u.evt.valid = true ∧
      strayKey.cfg.steps ≤ keyStep strayKey.cfg u.evt.key.toNat) ∧ State.reset.cfg.Sized ∧
    (let e := withRom [0x1D00#16]
     e.fault = false ∧ e.cfg.rom[e.upc.toNat]? = some 0x1D00#16 ∧ decode 0x1D00#16 = .ok (.pset 5 0 true) ∧
      ∃ t, cycle e = .next t ∧ t.fault = true) :=
  ⟨by decide, by decide, ⟨_, rfl, by decide, by decide⟩, by decide, by decide, by decide, by decide, ⟨_, rfl, by decide⟩⟩

theorem test_meets_TempoZeroFaults :
    { State.reset with tempo := 0#16 }.tempo = 0#16 ∧ (∃ t, exec .flush State.reset = .next t) ∧
    State.reset.cfg.WellFormed ∧ State.reset.tempo = State.reset.cfg.bpm := ⟨rfl, ⟨_, rfl⟩, test_config_accepts.1, rfl⟩

theorem test_meets_CompositeFaultsKeepEarlierLines :
    State.reset.cfg.Sized ∧
    (∃ t, exec .advance { State.reset with tempo := 0#16 } = .next t ∧ t.fault = true) ∧
    (strayKey.fault = false ∧ strayKey.cfg.Sized ∧ ∃ t, exec .input strayKey = .next t ∧ t.fault = true) ∧
    (State.reset.cfg.steps ≤ 16 ∧ ∃ t, exec (.ndisp 16) State.reset = .next t) :=
  ⟨by decide, ⟨_, rfl, by decide⟩, ⟨by decide, by decide, ⟨_, rfl, by decide⟩⟩, by decide, ⟨_, rfl⟩⟩

theorem test_meets_FaultsArePrecise :
    (Instr.pget 4 0 ≠ .input ∧ State.reset.fault = false ∧ ∃ t, exec (.pget 4 0) State.reset = .next t ∧ t.fault = true) ∧
    (strayKey.fault = false ∧ ∃ t, exec .input strayKey = .next t ∧ t.fault = true) ∧
    ((withRom [0x0000#16]).cfg.rom[(withRom [0x0000#16]).upc.toNat]? = some 0x0000#16 ∧
      decode 0x0000#16 = .error .reservedOpcode ∧ ∃ t, cycle (withRom [0x0000#16]) = .next t) :=
  ⟨⟨by decide, by decide, ⟨_, rfl, by decide⟩⟩, ⟨by decide, ⟨_, rfl, by decide⟩⟩, by decide, by decide, ⟨_, rfl⟩⟩

theorem test_meets_PsetWritesOneFlag :
    FilesSized State.reset ∧ 3 < State.reset.cfg.voices ∧ 15 < State.reset.cfg.steps ∧
    ¬(4 < State.reset.cfg.voices ∧ 0 < State.reset.cfg.steps) ∧
    ¬(0 < State.reset.cfg.voices ∧ 16 < State.reset.cfg.steps) ∧ 7 < 8 ∧ 255 < 256 := by decide

theorem test_meets_PgetReadsFlagIntoR :
    3 < State.reset.cfg.voices ∧ 15 < State.reset.cfg.steps ∧ ¬(4 < State.reset.cfg.voices ∧ 0 < State.reset.cfg.steps) ∧
    7 < 8 ∧ 255 < 256 := by decide

theorem test_meets_PatternRoundTrip :
    FilesSized State.reset ∧ 0 < State.reset.cfg.voices ∧ 0 < State.reset.cfg.steps ∧ 3 < State.reset.cfg.voices ∧
    15 < State.reset.cfg.steps ∧ (3, 15) ≠ (0, 0) := by decide

theorem test_meets_BsetWritesOneBit :
    FilesSized State.reset ∧ 15 < 8 * State.reset.cfg.len ∧ 8 * State.reset.cfg.len ≤ 16 ∧ 255 < 256 := by decide

theorem test_meets_BgetReadsBitIntoR :
    15 < 8 * State.reset.cfg.len ∧ 8 * State.reset.cfg.len ≤ 16 ∧ 255 < 256 := by decide

theorem test_meets_BitRoundTrip :
    FilesSized State.reset ∧ 15 < 8 * State.reset.cfg.len ∧ 8 * State.reset.cfg.len ≤ 16 := by decide

theorem test_meets_BitIndexMapping : 15 < 8 * State.reset.cfg.len ∧ 0 < 8 * State.reset.cfg.len := by decide

theorem test_meets_FlushPresentsBufThenStrobes : 1 ≤ State.reset.cfg.len := by decide

theorem test_meets_KrstAbsorbsSwitches : 15 < State.reset.cfg.keyCount := by decide

theorem test_meets_KpollReportsLeastChangedKey :
    let s := { State.reset with keyin := closed [15] }
    FilesSized s ∧ s.cfg.keyCount ≤ 256 ∧
    (∀ k < State.reset.cfg.keyCount, State.reset.keyin.getD k false = latch State.reset k) ∧
    15 < s.cfg.keyCount ∧ s.keyin.getD 15 false ≠ latch s 15 ∧ (∀ j < 15, s.keyin.getD j false = latch s j) := by decide

theorem test_meets_KeyTransitionsAlternate :
    FilesSized State.reset ∧ State.reset.cfg.keyCount ≤ 256 ∧ 7 < State.reset.cfg.keyCount ∧
    (∀ m ∈ [Moment.mk .kpoll 1#32 (closed [7]), ⟨.input, 2#32, closed []⟩], m.instr ≠ .krst) ∧
    transitionsOf 7 State.reset [⟨.kpoll, 1#32, closed [7]⟩, ⟨.input, 2#32, closed []⟩] = [true, false] := by decide

theorem test_meets_IntervalFormula : 1 ≤ 1 ∧ 1 ≤ 65535 := by decide

theorem test_meets_TadvTakesDueBoundary :
    (atTime 125 0 120).tempo ≠ 0#16 ∧
    15000 / (atTime 125 0 120).tempo.toNat ≤ ((atTime 125 0 120).time - (atTime 125 0 120).last).toNat ∧
    ((atTime 124 0 120).time - (atTime 124 0 120).last).toNat < 15000 / (atTime 124 0 120).tempo.toNat ∧
    { State.reset with tempo := 0#16 }.tempo = 0#16 := by decide

theorem test_meets_ModularComparisonIsExact :
    let s := atTime 0x3D 0xFFFFFFC0 120
    s.tempo ≠ 0#16 ∧ s.last = BitVec.ofNat 32 0xFFFFFFC0 ∧ s.time = BitVec.ofNat 32 0x10000003D ∧
    0xFFFFFFC0 ≤ 0x10000003D ∧ 0x10000003D < 0xFFFFFFC0 + 2 ^ 32 := by decide

theorem test_meets_IntervalZeroAlwaysAdvances :
    15000 < { State.reset with tempo := 15001#16 }.tempo.toNat ∧ 15000 < { State.reset with tempo := 65535#16 }.tempo.toNat := by
  decide

theorem test_meets_PlayheadCyclesThroughSteps :
    let s := { atTime 125 0 120 with step := 0xFFFFFFFF#32 }
    1 ≤ s.cfg.steps ∧ s.cfg.steps ∣ 2 ^ 32 ∧ ∃ t, exec .tadv s = .next t ∧ t.fault = false ∧ t.adv = true :=
  ⟨by decide, by decide, ⟨_, rfl, by decide, by decide⟩⟩

theorem test_meets_NdispEmitsActiveVoices :
    15 < State.reset.cfg.steps ∧ State.reset.cfg.steps ≤ 16 ∧ 255 < 256 := by decide

theorem test_meets_LoneFlagEmitsOneTrigger :
    let s := { State.reset with
      cfg := { Config.canonical with voices := 2, steps := 2, pitch := [36, 38] }
      pat := [[false, false], [false, true]] }
    1 < s.cfg.voices ∧ 1 < s.cfg.steps ∧ 0 < s.cfg.steps ∧
    ∀ v' q', patFlag s v' q' = decide (v' = 1 ∧ q' = 1) := by
  refine ⟨by decide, by decide, by decide, fun v q => ?_⟩
  rcases v with _ | _ | v <;> rcases q with _ | _ | q <;> simp [patFlag]

theorem test_meets_RenderLightsPlayhead : FilesSized State.reset ∧ 1 ≤ State.reset.cfg.len := by decide

theorem test_meets_DispatchRepeatsTriggers : 1 ≤ State.reset.cfg.steps := by decide

theorem test_meets_AdvanceClearsEndedStep :
    FilesSized (atTime 125 0 120) ∧ (atTime 125 0 120).tempo ≠ 0#16 ∧
    15000 / (atTime 125 0 120).tempo.toNat ≤ ((atTime 125 0 120).time - (atTime 125 0 120).last).toNat ∧
    FilesSized (atTime 124 0 120) ∧ (atTime 124 0 120).tempo ≠ 0#16 ∧
    ((atTime 124 0 120).time - (atTime 124 0 120).last).toNat < 15000 / (atTime 124 0 120).tempo.toNat ∧
    { State.reset with tempo := 0#16 }.tempo = 0#16 := by decide

theorem test_meets_InputAppliesKeyEvent :
    let s := { State.reset with keyin := closed [15] }
    (FilesSized State.reset ∧ 1 ≤ State.reset.cfg.voices ∧ ∃ u, exec .kpoll State.reset = .next u ∧ u.evt.valid = false) ∧
    (FilesSized s ∧ ∃ u, exec .kpoll s = .next u ∧ u.evt.valid = true ∧ keyStep s.cfg u.evt.key.toNat < s.cfg.steps) ∧
    (FilesSized strayKey ∧ ∃ u, exec .kpoll strayKey = .next u ∧ u.evt.valid = true ∧
      strayKey.cfg.steps ≤ keyStep strayKey.cfg u.evt.key.toNat) :=
  ⟨⟨by decide, by decide, ⟨_, rfl, by decide⟩⟩, ⟨by decide, ⟨_, rfl, by decide, by decide⟩⟩, by decide,
    ⟨_, rfl, by decide, by decide⟩⟩

theorem test_meets_FlagFollowsReportedKey :
    let s := { State.reset with keyin := closed [0, 15] }
    FilesSized s ∧ 1 ≤ s.cfg.voices ∧ s.cfg.keyCount ≤ 256 ∧ (∀ k < s.cfg.keyCount, keyStep s.cfg k < s.cfg.steps) ∧
    (∀ k < s.cfg.keyCount, ∀ j < s.cfg.keyCount, keyStep s.cfg k = keyStep s.cfg j → k = j) ∧
    patFlag s 0 (keyStep s.cfg 15) = latch s 15 ∧ after1 .input s State.evt = some ⟨true, true, 0#8⟩ := by decide

theorem test_meets_ResetLeavesHaltedState : 1 ≤ halted.cfg.rom.length ∧ halted.fault = true := by decide

theorem test_meets_ResetMeetsWf : Config.canonical.Sized := by decide

theorem test_meets_StepKeepsWf :
    (State.reset.Wf ∧ ∃ t, step State.reset = .next t) ∧ (halted.Wf ∧ ∃ t, step halted = .next t) ∧
    (withRom [0x0000#16]).Wf ∧ ∃ t, step (withRom [0x0000#16]) = .next t :=
  ⟨⟨by decide, ⟨_, rfl⟩⟩, ⟨by decide, ⟨_, rfl⟩⟩, by decide, ⟨_, rfl⟩⟩

theorem test_meets_WfStateSteps : State.reset.Wf ∧ halted.Wf := ⟨by decide, by decide⟩

theorem test_meets_WritersOfEachState :
    (∃ t, exec .input { State.reset with keyin := closed [15] } = .next t ∧ t.pat ≠ State.reset.pat ∧
      t.prev ≠ State.reset.prev) ∧
    (∃ t, exec .advance (atTime 125 0 120) = .next t ∧ t.step ≠ 0#32) ∧
    (∃ t, exec .render State.reset = .next t ∧ t.buf ≠ State.reset.buf ∧ t.ledTrace ≠ []) ∧
    (∃ t, exec (.pget 0 3) twoNotes = .next t ∧ t.r ≠ twoNotes.r) ∧
    (∃ t, exec (.ndisp 3) twoNotes = .next t ∧ t.noteTrace ≠ []) ∧
    ∃ t, exec (.pget 4 0) State.reset = .next t ∧ t.fault ≠ State.reset.fault :=
  ⟨⟨_, rfl, by decide, by decide⟩, ⟨_, rfl, by decide⟩, ⟨_, rfl, by decide, by decide⟩, ⟨_, rfl, by decide⟩,
    ⟨_, rfl, by decide⟩, ⟨_, rfl, by decide⟩⟩

theorem test_meets_ReadersOfInputsAndR :
    (∃ t, exec (.pget 0 3) twoNotes = .next t) ∧ Instr.pget 0 3 ≠ .tadv ∧ Instr.pget 0 3 ≠ .advance ∧
    Instr.pget 0 3 ≠ .krst ∧ Instr.pget 0 3 ≠ .kpoll ∧ Instr.pget 0 3 ≠ .input :=
  ⟨⟨_, rfl⟩, by decide, by decide, by decide, by decide, by decide⟩

theorem test_meets_TracesOnlyGrow : ∃ t, step (atUpc 1) = .next t ∧ t.ledTrace.length = 50 :=
  ⟨_, rfl, by decide⟩

theorem test_meets_CanonicalLoopNeverFaults :
    (Canonical State.reset.cfg ∧ State.reset.Wf ∧ Safe State.reset) ∧ (atUpc 4).cfg = State.reset.cfg ∧ (atUpc 4).Wf ∧
    Safe (atUpc 4) := ⟨⟨test_config_accepts, by decide, rfl⟩, rfl, by decide, rfl⟩

theorem test_meets_StepKeepsOneLitStep :
    (Canonical State.reset.cfg ∧ State.reset.cfg.steps ≤ 8 * State.reset.cfg.len ∧ State.reset.Wf ∧ Safe State.reset ∧
      OneLit State.reset ∧ ∃ t, step State.reset = .next t) ∧
    (litAtThree.cfg = State.reset.cfg ∧ litAtThree.Wf ∧ Safe litAtThree ∧ OneLit litAtThree ∧ LitAtPlayhead litAtThree) :=
  ⟨⟨test_config_accepts, by decide, by decide, rfl, by decide, ⟨_, rfl⟩⟩, rfl, by decide, rfl, by decide, by decide⟩

theorem test_meets_CanonicalRunNeverStops :
    Canonical Config.canonical ∧ Config.canonical.steps ≤ 8 * Config.canonical.len := ⟨test_config_accepts, by decide⟩

end Sys2Proof.Tests
end

/-! ## Memory (spec/20_memory.md)

The configuration, the control store among it, is written by nothing: first the operation bodies, then `exec`, one step, and a run
of any length (R79). The bit index mapping is the model's `index_mask` laws put together (R64). -/

namespace Sys2Proof.Machine

/-! ### The configuration through the operation bodies -/

@[simp] theorem bufWriteBit_cfg (s : State) (i : Nat) (a : Bool) : (bufWriteBit s i a).cfg = s.cfg := by
  rw [bufWriteBit_frame]

@[simp] theorem flushBody_cfg (s : State) : (flushBody s).cfg = s.cfg := by rw [flushBody_eq]

@[simp] theorem kpollBody_cfg (s : State) : (kpollBody s).cfg = s.cfg := by rw [kpollBody_frame]

theorem patWrite_cfg (s : State) (v st : Nat) (a : Bool) : (progressState (patWrite s v st a)).cfg = s.cfg := by
  by_cases h : InPattern s.cfg v st
  · rw [patWrite_of_in s v st a h, progressState_running, setFlag_cfg]
  · rw [patWrite_of_out s v st a h, progressState_raise, enterFault_cfg]

theorem pgetBody_cfg (s : State) (v st : Nat) : (progressState (pgetBody v st s)).cfg = s.cfg := by
  by_cases h : InPattern s.cfg v st
  · rw [pgetBody_of_in s v st h, progressState_running, setR_cfg]
  · rw [pgetBody_of_out s v st h, progressState_raise, enterFault_cfg]

theorem tadvBody_cfg (s : State) : (progressState (tadvBody s)).cfg = s.cfg := by
  obtain ⟨-, h⟩ | ⟨-, -, h⟩ | ⟨-, -, h⟩ := tadvBody_cases s <;> rw [h]
  · rw [progressState_raise, enterFault_cfg]
  · rw [progressState_running, takeBoundary_cfg]
  · rw [progressState_running, noBoundary_cfg]

theorem ndispBody_cfg (s : State) (st : Nat) : (progressState (ndispBody st s)).cfg = s.cfg := by
  by_cases h : st < s.cfg.steps
  · rw [ndispBody_of_in s st h, progressState_running, emitNotes_cfg]
  · rw [ndispBody_of_out s st h, progressState_raise, enterFault_cfg]

theorem afterOperation_cfg (t : State) : (afterOperation t).cfg = t.cfg := by
  unfold afterOperation
  split
  · rfl
  · exact advanceUpc_cfg t

/-! ### The configuration through operations, steps and runs -/

/-- ADVANCE in each of its three outcomes keeps the configuration. -/
theorem exec_advance_cfg (s t : State) (h : exec .advance s = .next t) : t.cfg = s.cfg := by
  obtain ⟨-, hx⟩ | ⟨-, -, hx⟩ | ⟨-, -, hx⟩ := advance_cases s <;> rw [hx] at h <;> cases h
  · exact enterFault_cfg _ _
  · rw [bufWriteBit_cfg, takeBoundary_cfg]
  · exact noBoundary_cfg _

/-- INPUT in each of its three outcomes keeps the configuration. -/
theorem exec_input_cfg (s t : State) (h : exec .input s = .next t) : t.cfg = s.cfg := by
  obtain ⟨-, hx⟩ | ⟨-, -, hx⟩ | ⟨-, -, hx⟩ := input_cases s <;> rw [hx] at h <;> cases h
  · exact kpollBody_cfg s
  · rw [setFlag_cfg, kpollBody_cfg]
  · rw [enterFault_cfg, kpollBody_cfg]

/-- No operation writes the configuration (R29, R79). -/
theorem exec_cfg (i : Instr) (s t : State) (h : exec i s = .next t) : t.cfg = s.cfg := by
  cases i with
  | advance => exact exec_advance_cfg s t h
  | input => exact exec_input_cfg s t h
  | pset v st a => cases h; exact patWrite_cfg s v st a
  | pget v st => cases h; exact pgetBody_cfg s v st
  | bset i a => cases h; exact bufWriteBit_cfg s i a
  | bget i => cases h; exact setR_cfg _ s
  | flush => cases h; exact flushBody_cfg s
  | krst => cases h; exact krstBody_cfg s
  | kpoll => cases h; exact kpollBody_cfg s
  | tadv => cases h; exact tadvBody_cfg s
  | ndisp st => cases h; exact ndispBody_cfg s st
  | render => cases h; exact (flushBody_cfg _).trans (bufWriteBit_cfg s _ _)
  | dispatch => cases h; exact ndispBody_cfg s (playhead s)

/-- No step writes the configuration: not the environment, not fault entry, not an operation, not the advance of UPC. -/
theorem step_cfg (s t : State) (h : step s = .next t) : t.cfg = s.cfg := by
  obtain ⟨-, hs⟩ | ⟨-, -, hs⟩ | ⟨_, _, -, -, -, hs⟩ | ⟨_, i, u, -, -, -, hu, hs⟩ := step_cases s <;>
    rw [hs] at h <;> cases h
  · exact environment_cfg s
  · rw [enterFault_cfg, environment_cfg]
  · rw [afterOperation_cfg, exec_cfg i _ u hu, environment_cfg]

/-- What every step of a machine keeps, every run keeps. -/
theorem run_keeps (M : Host.Core) (P : M.State → Prop) (hstep : ∀ s t, P s → M.step s = .next t → P t) (n : Nat)
    (s t : M.State) (hs : P s) (h : M.run n s = .next t) : P t := by
  induction n generalizing s with
  | zero => cases h; exact hs
  | succ n ih =>
    obtain ⟨u, hu, hrun⟩ := run_succ_next M n s t h
    exact ih u (hstep s u hs hu) hrun

/-! ### The obligations -/

/-- Settles O11: every step keeps the configuration (`step_cfg`), so every run does. -/
theorem controlStoreIsNeverWritten : Obligations.ControlStoreIsNeverWritten := fun n s t h =>
  run_keeps Sys2Proof.core (fun u : State => u.cfg = s.cfg)
    (fun u v hu hv => (step_cfg u v hv).trans hu) n s t rfl h

/-- Settles O23: the two components of `index_mask`, and the read of a bit in range. -/
theorem bitIndexMapping : Obligations.BitIndexMapping :=
  ⟨fun i => ⟨indexMask_fst i, indexMask_snd_getLsbD i⟩, bufReadBit_of_lt⟩

end Sys2Proof.Machine

/-! ## Encoding (spec/30_encoding.md)

A word is its four fields (R91), so both directions of R96 and both cases of R97 are read off one predicate: `Carries i w`, the
word `w` has the opcode and the operands of `i` in its fields and 0 in the fields that the format of `i` does not use (R92). -/

namespace Sys2Proof

open Laws.EncodeFields

/-! ### The fields of a word -/

/-- Two words with the same four fields are the same word (R91). -/
theorem word_eq_of_fields (w w' : Word) (ho : (opField w).toNat = (opField w').toNat) (ha : aField w = aField w')
    (hv : vcField w = vcField w') (hi : idxField w = idxField w') : w = w' :=
  BitVec.eq_of_toNat_eq (by rw [word_toNat w, word_toNat w', ho, ha, hv, hi])

/-- A mask and a pattern are compared field by field. -/
theorem selects_iff_fields (w m p : Word) :
    w &&& m = p ↔ opField w &&& opField m = opField p ∧ (aField w && aField m) = aField p ∧
      vcField w &&& vcField m = vcField p ∧ idxField w &&& idxField m = idxField p := by
  have ho : opField (w &&& m) = opField w &&& opField m := BitVec.extractLsb'_and
  have ha : aField (w &&& m) = (aField w && aField m) := BitVec.getLsbD_and
  have hv : vcField (w &&& m) = vcField w &&& vcField m := by simp [vcField, BitVec.extractLsb'_and]
  have hi : idxField (w &&& m) = idxField w &&& idxField m := by simp only [idxField, BitVec.extractLsb'_and, BitVec.toNat_and]
  rw [← ho, ← ha, ← hv, ← hi]
  constructor
  · rintro rfl
    exact ⟨rfl, rfl, rfl, rfl⟩
  · rintro ⟨ho, ha, hv, hi⟩
    exact word_eq_of_fields _ _ (congrArg BitVec.toNat ho) ha hv hi

/-- A mask that covers a field only where it is unused leaves 0 exactly when the field is used or 0; likewise for VC and IDX below. -/
theorem aField_masked_iff (used : Bool) (w : Word) :
    (aField w && !used) = false ↔ (used = false → aField w = false) := by
  cases used <;> simp

theorem vcField_masked_iff (used : Bool) (w : Word) :
    vcField w &&& (if used then 0 else 7) = 0 ↔ (used = false → vcField w = 0) := by
  have hfull : vcField w &&& 7 = vcField w := @Nat.and_two_pow_sub_one_of_lt_two_pow 3 _ (vcField_lt w)
  cases used <;> simp [hfull]

theorem idxField_masked_iff (used : Bool) (w : Word) :
    idxField w &&& (if used then 0 else 255) = 0 ↔ (used = false → idxField w = 0) := by
  have hfull : idxField w &&& 255 = idxField w := @Nat.and_two_pow_sub_one_of_lt_two_pow 8 _ (idxField_lt w)
  cases used <;> simp [hfull]

/-! ### The word of an operation -/

/-- The fields of `w` are those of the operation `i`. -/
def Carries (i : Instr) (w : Word) : Prop :=
  (opField w).toNat = opcode i ∧ aField w = boolean i ∧ vcField w = voice i ∧ idxField w = index i

/-- The word of an operation with operands in range carries it: the family `EncodeFields`, all constructors together. -/
theorem carries_encode (i : Instr) (h : i.WellFormed) : Carries i (encode i) := by
  cases i with
  | pset v st a => exact pset v st a h
  | pget v st => exact pget v st h
  | bset i a => exact bset i a h
  | bget i => exact bget i h
  | flush => exact flush h
  | krst => exact krst h
  | kpoll => exact kpoll h
  | tadv => exact tadv h
  | ndisp st => exact ndisp st h
  | render => exact render h
  | dispatch => exact dispatch h
  | advance => exact advance h
  | input => exact input h

/-- Only one word carries an operation. -/
theorem carries_unique (i : Instr) (w w' : Word) (h : Carries i w) (h' : Carries i w') : w = w' := by
  obtain ⟨ho, ha, hv, hi⟩ := h
  obtain ⟨ho', ha', hv', hi'⟩ := h'
  exact word_eq_of_fields w w' (ho.trans ho'.symm) (ha.trans ha'.symm) (hv.trans hv'.symm) (hi.trans hi'.symm)

/-- Operands read from the fields of a word are in the range of their fields (R91, R107). -/
theorem operandsOf_wellFormed (m : Mnemonic) (w : Word) : (operandsOf m w).WellFormed := by
  have hv := vcField_lt w
  have hi := idxField_lt w
  cases m <;> simp [operandsOf, Instr.WellFormed, Instr.wellFormed, hv, hi]

/-- The mnemonic of an operation. -/
def mnemonicOf : Instr → Mnemonic
  | .pset _ _ _ => .pset
  | .pget _ _ => .pget
  | .bset _ _ => .bset
  | .bget _ => .bget
  | .flush => .flush
  | .krst => .krst
  | .kpoll => .kpoll
  | .tadv => .tadv
  | .ndisp _ => .ndisp
  | .render => .render
  | .dispatch => .dispatch
  | .advance => .advance
  | .input => .input

/-- A word that carries an operation gives back its operands. -/
theorem operandsOf_of_carries (i : Instr) (w : Word) (h : Carries i w) : operandsOf (mnemonicOf i) w = i := by
  obtain ⟨-, ha, hv, hi⟩ := h
  cases i <;> simp [operandsOf, mnemonicOf, ha, hv, hi, boolean, voice, index]

/-! ### Formats and rows -/

/-- The format of a row uses A (R92). -/
def usesA : Mnemonic → Bool
  | .pset | .bset => true
  | _ => false

/-- The format of a row uses VC (R92). -/
def usesVc : Mnemonic → Bool
  | .pset | .pget => true
  | _ => false

/-- The format of a row uses IDX (R92). -/
def usesIdx : Mnemonic → Bool
  | .pset | .pget | .bset | .bget | .ndisp => true
  | _ => false

/-- OP of a row (R95): that of its operation, whatever the operands. -/
def opcodeOf (m : Mnemonic) : Nat := opcode (operandsOf m 0#16)

/-- Every field that the format of `m` does not use is 0 in `w` (R92). -/
def UnusedClear (m : Mnemonic) (w : Word) : Prop :=
  (usesA m = false → aField w = false) ∧ (usesVc m = false → vcField w = 0) ∧ (usesIdx m = false → idxField w = 0)

/-- A word carries the operation its own fields give for `m` exactly when it has the opcode of `m` and its unused fields are 0. -/
theorem carries_operandsOf_iff (m : Mnemonic) (w : Word) :
    Carries (operandsOf m w) w ↔ (opField w).toNat = opcodeOf m ∧ UnusedClear m w := by
  cases m <;> simp [Carries, operandsOf, opcodeOf, UnusedClear, opcode, boolean, voice, index, usesA, usesVc, usesIdx]

/-- The mask of a row covers OP and the unused fields; its match holds the opcode and 0 in every other field (R95). -/
theorem row_fields : ∀ row ∈ opcodeMap,
    (opField row.mask = 15#4 ∧ aField row.mask = !usesA row.mnemonic ∧
      vcField row.mask = (if usesVc row.mnemonic then 0 else 7) ∧
      idxField row.mask = (if usesIdx row.mnemonic then 0 else 255)) ∧
    (opField row.pattern).toNat = opcodeOf row.mnemonic ∧ aField row.pattern = false ∧ vcField row.pattern = 0 ∧
      idxField row.pattern = 0 := by decide

/-- A row selects exactly the words with its opcode and its unused fields 0 (R95). -/
theorem selects_iff (row : OpRow) (hrow : row ∈ opcodeMap) (w : Word) :
    w &&& row.mask = row.pattern ↔ (opField w).toNat = opcodeOf row.mnemonic ∧ UnusedClear row.mnemonic w := by
  obtain ⟨⟨mo, ma, mv, mi⟩, po, pa, pv, pi⟩ := row_fields row hrow
  have hop : opField w &&& 15#4 = opField w := BitVec.and_allOnes
  rw [selects_iff_fields, mo, ma, mv, mi, pa, pv, pi, hop, ← BitVec.toNat_inj, po, aField_masked_iff, vcField_masked_iff,
    idxField_masked_iff, UnusedClear]

/-- A row selects exactly the words that carry its operation. -/
theorem selects_iff_carries (row : OpRow) (hrow : row ∈ opcodeMap) (w : Word) :
    w &&& row.mask = row.pattern ↔ Carries (operandsOf row.mnemonic w) w :=
  (selects_iff row hrow w).trans (carries_operandsOf_iff row.mnemonic w).symm

/-- Every mnemonic has its row (R95). -/
theorem exists_row (m : Mnemonic) : ∃ row ∈ opcodeMap, row.mnemonic = m := by cases m <;> decide

/-! ### Decoding is the inverse of encoding (R96) -/

/-- A word that carries an operation decodes to it. -/
theorem decode_of_carries (i : Instr) (w : Word) (h : Carries i w) : decode w = .ok i := by
  obtain ⟨row, hrow, hm⟩ := exists_row (mnemonicOf i)
  have hi : operandsOf row.mnemonic w = i := by rw [hm, operandsOf_of_carries i w h]
  rw [decode_of_selects w row hrow ((selects_iff_carries row hrow w).mpr (by rwa [hi])), hi]

/-- A word that decodes to an operation carries it, and the operands are in range. -/
theorem carries_of_decode (w : Word) (i : Instr) (h : decode w = .ok i) : i.WellFormed ∧ Carries i w := by
  obtain ⟨row, hrow, hs, rfl⟩ := decode_ok_row w i h
  exact ⟨operandsOf_wellFormed row.mnemonic w, (selects_iff_carries row hrow w).mp hs⟩

/-- `decode(encode(op)) = op` (R96). -/
theorem decode_encode (i : Instr) (h : i.WellFormed) : decode (encode i) = .ok i :=
  decode_of_carries i (encode i) (carries_encode i h)

/-- `encode(decode(w)) = w` for every legal word (R96). -/
theorem encode_of_decode (w : Word) (i : Instr) (h : decode w = .ok i) : i.WellFormed ∧ encode i = w := by
  obtain ⟨hwf, hw⟩ := carries_of_decode w i h
  exact ⟨hwf, carries_unique i (encode i) w (carries_encode i hwf) hw⟩

/-- Settles O1: rows are disjoint (`decode_of_selects`), and a word is the word of an operation exactly when it carries it. -/
theorem decodeAndEncodeAreInverse : Obligations.DecodeAndEncodeAreInverse :=
  ⟨decode_of_selects, fun w h => ⟨illegalCase w, decode_of_no_row w h⟩, decode_encode, encode_of_decode⟩

/-! ### Illegal words (R97) -/

/-- OP is reserved: case (a). -/
def Reserved (w : Word) : Prop := opField w = 0x0#4 ∨ opField w = 0xE#4 ∨ opField w = 0xF#4

/-- OP is 0x1 to 0xD and a field that its format requires to be zero is not: case (b). -/
def UnusedFieldSet (w : Word) : Prop :=
  (opField w = 0x2#4 ∧ aField w = true) ∨ (opField w = 0x3#4 ∧ vcField w ≠ 0) ∨
  ((opField w = 0x4#4 ∨ opField w = 0x9#4) ∧ (aField w = true ∨ vcField w ≠ 0)) ∨
  ((0x5#4 ≤ opField w ∧ opField w ≤ 0x8#4 ∨ 0xA#4 ≤ opField w ∧ opField w ≤ 0xD#4) ∧
    (aField w = true ∨ vcField w ≠ 0 ∨ idxField w ≠ 0))

/-- An opcode is reserved exactly when no row has it (R95). -/
theorem reserved_iff (w : Word) : Reserved w ↔ ∀ row ∈ opcodeMap, (opField w).toNat ≠ opcodeOf row.mnemonic := by
  unfold Reserved
  generalize opField w = op
  revert op
  decide

theorem not_unusedFieldSet_of_reserved (w : Word) (h : Reserved w) : ¬UnusedFieldSet w := by
  obtain h | h | h := h <;> simp [UnusedFieldSet, h]

/-- Under the opcode of a row, case (b) says that the format of the row is broken. -/
theorem unusedFieldSet_iff (m : Mnemonic) (w : Word) (h : (opField w).toNat = opcodeOf m) :
    UnusedFieldSet w ↔ ¬UnusedClear m w := by
  have ho : opField w = BitVec.ofNat 4 (opcodeOf m) := by rw [← h, BitVec.ofNat_toNat, BitVec.setWidth_eq]
  unfold UnusedFieldSet
  rw [ho]
  cases m <;> simp [opcodeOf, operandsOf, opcode, UnusedClear, usesA, usesVc, usesIdx, imp_iff_not_or]

/-- A word is illegal exactly when it selects no row, and then it falls under the case that its opcode says. -/
theorem decode_error_iff (w : Word) (why : IllegalWord) :
    decode w = .error why ↔ (∀ row ∈ opcodeMap, w &&& row.mask ≠ row.pattern) ∧ illegalCase w = why := by
  constructor
  · intro h
    have hno : ∀ row ∈ opcodeMap, w &&& row.mask ≠ row.pattern := fun row hrow hs => by
      rw [decode_of_selects w row hrow hs] at h
      cases h
    rw [decode_of_no_row w hno] at h
    exact ⟨hno, Except.error.inj h⟩
  · rintro ⟨hno, rfl⟩
    exact decode_of_no_row w hno

theorem illegalCase_reserved_iff (w : Word) : illegalCase w = .reservedOpcode ↔ Reserved w := by
  simp [illegalCase, Reserved, or_iff_not_imp_left]

theorem illegalCase_unused_iff (w : Word) : illegalCase w = .nonzeroUnusedField ↔ ¬Reserved w := by
  simp [illegalCase, Reserved]

/-- Case (a) of R97. -/
theorem decode_reserved_iff (w : Word) : decode w = .error .reservedOpcode ↔ Reserved w := by
  rw [decode_error_iff, illegalCase_reserved_iff]
  exact ⟨And.right, fun h => ⟨fun row hrow hs =>
    (reserved_iff w).mp h row hrow ((selects_iff row hrow w).mp hs).1, h⟩⟩

/-- Case (b) of R97: the row with the opcode exists, and what keeps it from selecting the word is an unused field. -/
theorem decode_unused_iff (w : Word) : decode w = .error .nonzeroUnusedField ↔ UnusedFieldSet w := by
  rw [decode_error_iff, illegalCase_unused_iff]
  constructor
  · rintro ⟨hno, hr⟩
    obtain ⟨row, hrow, hop⟩ : ∃ row ∈ opcodeMap, (opField w).toNat = opcodeOf row.mnemonic := by
      simpa [reserved_iff] using hr
    exact (unusedFieldSet_iff row.mnemonic w hop).mpr fun hc => hno row hrow ((selects_iff row hrow w).mpr ⟨hop, hc⟩)
  · intro hu
    refine ⟨fun row hrow hs => ?_, fun hr => not_unusedFieldSet_of_reserved w hr hu⟩
    obtain ⟨hop, hc⟩ := (selects_iff row hrow w).mp hs
    exact (unusedFieldSet_iff row.mnemonic w hop).mp hu hc

end Sys2Proof

namespace Sys2Proof.Machine

/-- The fetch of an illegal word is fault entry with that word in FINFO, and nothing else (R97, R207). -/
theorem cycle_of_illegal (e : State) (w : Word) (why : IllegalWord) (hf : e.fault = false)
    (hw : e.cfg.rom[e.upc.toNat]? = some w) (hd : decode w = .error why) :
    cycle e = .next { e with fault := true, fcause := 2#2, finfo := w } := by
  simp [cycle, hf, fetch_of_error e w why hw hd, enterFault, causeCode, currentWord_of_get e w hw]

/-- A well-formed control store holds operations only (R8). -/
theorem decode_ok_of_wellFormed (c : Config) (hc : c.WellFormed) (w : Word) (hw : w ∈ c.rom) : ∃ i, decode w = .ok i := by
  obtain ⟨-, -, -, -, -, -, -, -, -, hrom⟩ := hc
  have h := List.all_eq_true.mp hrom w hw
  cases hd : decode w with
  | ok i => exact ⟨i, rfl⟩
  | error why => rw [hd] at h; cases h

/-- Settles O3: a word is illegal when no row has its opcode, or the row that has it finds an unused field set. -/
theorem illegalWordsFault : Obligations.IllegalWordsFault :=
  ⟨fun w => ⟨decode_reserved_iff w, decode_unused_iff w⟩, cycle_of_illegal, decode_ok_of_wellFormed⟩

end Sys2Proof.Machine

/-! ## Pattern Store (spec/40_pattern_store.md)

PSET and PGET in range and out of range, each from the law of its body; their words are assembled words (R96). -/

namespace Sys2Proof.Machine

/-! ### The operations -/

/-- PSET in range writes the flag (R120). -/
theorem exec_pset_of_in (s : State) (v st : Nat) (a : Bool) (h : InPattern s.cfg v st) :
    exec (.pset v st a) s = .next (setFlag s v st a) := congrArg complete (patWrite_of_in s v st a h)

/-- PSET out of range enters the fault PATTERN_INDEX, from the state PSET found (R120, R207). -/
theorem exec_pset_of_out (s : State) (v st : Nat) (a : Bool) (h : ¬InPattern s.cfg v st) :
    exec (.pset v st a) s = .next (enterFault .patternIndex s) := congrArg complete (patWrite_of_out s v st a h)

/-- PGET in range copies the flag to R (R121). -/
theorem exec_pget_of_in (s : State) (v st : Nat) (h : InPattern s.cfg v st) :
    exec (.pget v st) s = .next (setR (patFlag s v st) s) := congrArg complete (pgetBody_of_in s v st h)

/-- PGET out of range enters the fault PATTERN_INDEX, from the state PGET found (R121, R207). -/
theorem exec_pget_of_out (s : State) (v st : Nat) (h : ¬InPattern s.cfg v st) :
    exec (.pget v st) s = .next (enterFault .patternIndex s) := congrArg complete (pgetBody_of_out s v st h)

/-! ### Their words -/

/-- The word of PSET: opcode 1 and all three operands (R92, R120). -/
theorem encode_pset_toNat (v st : Nat) (a : Bool) (hv : v < 8) (hst : st < 256) :
    (encode (.pset v st a)).toNat = 0x1000 + a.toNat * 2048 + v * 256 + st := assemble_toNat 0x1 v st a (by omega) hv hst

/-- The word of PGET: opcode 2, bit 11 clear, and two operands (R92, R121). -/
theorem encode_pget_toNat (v st : Nat) (hv : v < 8) (hst : st < 256) :
    (encode (.pget v st)).toNat = 0x2000 + v * 256 + st := assemble_toNat 0x2 v st false (by omega) hv hst

/-! ### The obligations -/

/-- Settles O17: in range the next state is `setFlag`, whose flags `patFlag_setFlag` gives one by one. -/
theorem psetWritesOneFlag : Obligations.PsetWritesOneFlag := by
  refine ⟨fun s v st a hs hv hst => ?inRange, exec_pset_of_out, encode_pset_toNat⟩
  exact ⟨setFlag s v st a, exec_pset_of_in s v st a ⟨hv, hst⟩, rfl, setFlag_sized s v st a hs,
    fun v' st' => patFlag_setFlag s v st v' st' a hs hv hst⟩

/-- Settles O18: in range the next state is `setR` of the flag, out of range fault entry from the same state. -/
theorem pgetReadsFlagIntoR : Obligations.PgetReadsFlagIntoR :=
  ⟨fun s v st hv hst => exec_pget_of_in s v st ⟨hv, hst⟩, exec_pget_of_out, encode_pget_toNat⟩

end Sys2Proof.Machine

/-! ## Bit Driver (spec/41_bit_driver.md)

BSET and BGET are one bit write and one bit read, so what they do is the laws of bit space (R65, R66). FLUSH is the law of its body
(`flushBody_eq`) with the events, the emptiness and the last level of its frame read off the presentation order (R135). -/

namespace Sys2Proof.Machine

/-! ### The operations -/

/-- BSET is one bit write (R130). -/
theorem exec_bset (s : State) (i : Nat) (a : Bool) : exec (.bset i a) s = .next (bufWriteBit s i a) := rfl

/-- BGET puts one bit read in R (R131). -/
theorem exec_bget (s : State) (i : Nat) : exec (.bget i) s = .next (setR (bufReadBit s i) s) := rfl

/-- FLUSH is its body, which cannot fault (R135). -/
theorem exec_flush (s : State) : exec .flush s = .next (flushBody s) := rfl

/-- After a bit write in range the bit written reads as the value, and every other index, in range or not, as before (R66). -/
theorem bufReadBit_bufWriteBit_of_lt (s : State) (i j : Nat) (a : Bool) (hs : FilesSized s) (h : i < 8 * s.cfg.len) :
    bufReadBit (bufWriteBit s i a) j = if j = i then a else bufReadBit s j := by
  have hin : (j = i ∧ j < 8 * s.cfg.len) ↔ j = i := and_iff_left_of_imp fun hji => hji ▸ h
  rw [bufReadBit_bufWriteBit s i j a hs, if_congr hin rfl rfl]

/-! ### The frame of a FLUSH -/

/-- The events of a FLUSH, position by position in presentation order (R135). -/
theorem flushEvents_frameOf (s : State) :
    flushEvents (frameOf s) =
      ((List.range (8 * s.cfg.len)).flatMap fun j => bitEvents (bufReadBit s (presentedIndex s.cfg j))) ++ [.s1, .s0] := by
  rw [flushEvents, frameOf, List.flatMap_map]

/-- A buffer of at least one byte has a frame that is not empty. -/
theorem frameOf_ne_nil (s : State) (h : 1 ≤ s.cfg.len) : frameOf s ≠ [] :=
  List.ne_nil_of_length_pos (by rw [frameOf_length]; omega)

/-- The last level presented is the bit at the last position of FLUSH_ORDER (R135). -/
theorem frameOf_getLastD (s : State) (d : Bool) (h : 1 ≤ s.cfg.len) :
    (frameOf s).getLastD d = bufReadBit s (presentedIndex s.cfg (8 * s.cfg.len - 1)) := by
  obtain ⟨n, hn⟩ : ∃ n, 8 * s.cfg.len = n + 1 := Nat.exists_eq_succ_of_ne_zero (by omega)
  rw [frameOf, hn, List.range_succ, List.map_append, Nat.add_sub_cancel]
  exact List.getLastD_concat

/-- LEDTRACE after a FLUSH (R135). -/
theorem flushBody_ledTrace (s : State) : (flushBody s).ledTrace = s.ledTrace ++ flushEvents (frameOf s) := by
  rw [flushBody_eq]

/-- A FLUSH appends `3 * 8 * LEN + 2` events (R135). -/
theorem flushBody_ledTrace_length (s : State) :
    (flushBody s).ledTrace.length = s.ledTrace.length + (3 * 8 * s.cfg.len + 2) := by
  rw [flushBody_ledTrace, List.length_append, flushEvents_length, frameOf_length, Nat.mul_assoc]

/-- A FLUSH changes the three lines and LEDTRACE alone (R135). -/
theorem flushBody_frame (s : State) :
    flushBody s = { s with
      ledData := (flushBody s).ledData
      ledClk := (flushBody s).ledClk
      ledStrobe := (flushBody s).ledStrobe
      ledTrace := (flushBody s).ledTrace } := by
  rw [flushBody_eq]

/-- A FLUSH ends its strobe pulse (R135). -/
theorem flushBody_ledStrobe (s : State) : (flushBody s).ledStrobe = false := by rw [flushBody_eq]

/-- A FLUSH of at least one bit ends its last clock pulse (R135). -/
theorem flushBody_ledClk (s : State) (h : 1 ≤ s.cfg.len) : (flushBody s).ledClk = false := by
  rw [flushBody_eq]
  exact if_neg (frameOf_ne_nil s h)

/-- A FLUSH of at least one bit leaves LED_DATA at the last bit presented (R135). -/
theorem flushBody_ledData (s : State) (h : 1 ≤ s.cfg.len) :
    (flushBody s).ledData = bufReadBit s (presentedIndex s.cfg (8 * s.cfg.len - 1)) := by
  rw [flushBody_eq]
  exact frameOf_getLastD s s.ledData h

/-! ### Their words -/

/-- The word of BSET: opcode 3, the value in bit 11, VC clear, and the index (R92, R130). -/
theorem encode_bset_toNat (i : Nat) (a : Bool) (hi : i < 256) :
    (encode (.bset i a)).toNat = 0x3000 + a.toNat * 2048 + i := assemble_toNat 0x3 0 i a (by omega) (by omega) hi

/-- The word of BGET: opcode 4 and the index, every other field clear (R92, R131). -/
theorem encode_bget_toNat (i : Nat) (hi : i < 256) : (encode (.bget i)).toNat = 0x4000 + i :=
  assemble_toNat 0x4 0 i false (by omega) (by omega) hi

/-! ### The obligations -/

/-- Settles O20: in range the next state is `bufWriteBit`, whose bits `bufReadBit_bufWriteBit_of_lt` gives one by one; out of range
the write does nothing. -/
theorem bsetWritesOneBit : Obligations.BsetWritesOneBit := by
  refine ⟨fun s i a hs hi => ?inRange, fun s i a hi => ?outOfRange, encode_bset_toNat⟩
  case inRange =>
    exact ⟨bufWriteBit s i a, exec_bset s i a, bufWriteBit_frame s i a, bufWriteBit_sized s i a hs,
      fun j => bufReadBit_bufWriteBit_of_lt s i j a hs hi⟩
  case outOfRange => rw [exec_bset, bufWriteBit_of_ge s i a hi]

/-- Settles O21: the next state is `setR` of the bit read, which is the bit of its byte in range and 0 out of range. -/
theorem bgetReadsBitIntoR : Obligations.BgetReadsBitIntoR := by
  refine ⟨fun s i hi => ?inRange, fun s i hi => ?outOfRange, encode_bget_toNat⟩
  case inRange => rw [exec_bget, bufReadBit_of_lt s i hi, setR]
  case outOfRange => rw [exec_bget, bufReadBit_of_ge s i hi, setR]

/-- Settles O24: the next state is that of the body of FLUSH, whose events are those of its frame in presentation order. -/
theorem flushPresentsBufThenStrobes : Obligations.FlushPresentsBufThenStrobes := by
  refine ⟨fun s => ⟨flushBody s, exec_flush s, flushBody_frame s, ?events, flushBody_ledTrace_length s,
    flushBody_ledStrobe s, fun h => ⟨flushBody_ledClk s h, flushBody_ledData s h⟩⟩, ?word⟩
  case events =>
    rw [flushBody_ledTrace, flushEvents_frameOf, ← List.append_assoc]
    rfl
  case word => decide

end Sys2Proof.Machine

/-! ## Keypad Scanner (spec/42_keypad_scanner.md)

KRST and KPOLL in terms of KEYIN: the sample of a key is its level (`sample_getD`, R145), and the law of the KPOLL body
(`kpollBody_cases`) is turned round, so that the keys say which of its two branches is taken (R147). -/

namespace Sys2Proof.Machine

/-! ### The operations -/

/-- KRST is its body, which cannot fault (R146). -/
theorem exec_krst (s : State) : exec .krst s = .next (krstBody s) := rfl

/-- KPOLL is its body, which cannot fault (R147). -/
theorem exec_kpoll (s : State) : exec .kpoll s = .next (kpollBody s) := rfl

/-- A KRST changes PREV and EVT alone, and EVT to absent (R146). -/
theorem krstBody_frame (s : State) :
    krstBody s = { s with prev := (krstBody s).prev, evt := KeyEvent.absent } := rfl

/-- A KRST gives PREV a latch for every key (R146). -/
theorem krstBody_prev_length (s : State) : (krstBody s).prev.length = s.cfg.keyCount := by
  rw [krstBody_prev, sample_length]

/-- After a KRST the latch of a key is the level of its switch (R146). -/
theorem latch_krstBody (s : State) (k : Nat) (hk : k < s.cfg.keyCount) :
    latch (krstBody s) k = s.keyin.getD k false := by
  rw [latch, krstBody_prev, sample_getD s k hk]

/-- A KPOLL that finds every key equal to its latch clears EVT and does nothing else (R147). -/
theorem kpollBody_of_unchanged (s : State) (h : ∀ k < s.cfg.keyCount, s.keyin.getD k false = latch s k) :
    kpollBody s = clearEvent s := by
  obtain ⟨k, hk, hne, -, -⟩ | ⟨-, hb⟩ := kpollBody_cases s
  · rw [sample_getD s k hk] at hne
    exact absurd (h k hk) hne
  · exact hb

/-- A KPOLL reports the key `k` that differs from its latch when every lesser key equals its own (R147). -/
theorem kpollBody_of_least (s : State) (k : Nat) (hk : k < s.cfg.keyCount) (hne : s.keyin.getD k false ≠ latch s k)
    (hleast : ∀ j < k, s.keyin.getD j false = latch s j) :
    kpollBody s = reportKey k (s.keyin.getD k false) s := by
  rw [← sample_getD s k hk] at hne ⊢
  obtain ⟨m, hm, hmne, hmleast, hb⟩ | ⟨hnone, -⟩ := kpollBody_cases s
  · obtain hlt | rfl | hgt := Nat.lt_trichotomy m k
    · rw [sample_getD s m hm] at hmne
      exact absurd (hleast m hlt) hmne
    · exact hb
    · exact absurd (hmleast k hgt) hne
  · exact absurd (hnone k hk) hne

/-! ### The obligations -/

/-- Settles O28: the keys say whether the next state is `clearEvent` or `reportKey` of the least changed key, whose latches
`latch_reportKey` gives one by one. -/
theorem kpollReportsLeastChangedKey : Obligations.KpollReportsLeastChangedKey := by
  refine ⟨fun s hs h256 => ⟨kpollBody s, exec_kpoll s, kpollBody_frame s, kpollBody_sized s hs,
    fun hsame => ?unchanged, fun k hk hne hleast => ?changed⟩, ?word⟩
  case unchanged =>
    rw [kpollBody_of_unchanged s hsame]
    exact ⟨rfl, rfl⟩
  case changed =>
    rw [kpollBody_of_least s k hk hne hleast]
    exact ⟨rfl, rfl, keyEventOf_key_toNat k _ (by omega), fun j => latch_reportKey s k j _ hs hk⟩
  case word => decide

/-- Settles O27: the next state is that of the body of KRST, whose latches are the levels of the switches. -/
theorem krstAbsorbsSwitches : Obligations.KrstAbsorbsSwitches := by
  refine ⟨fun s => ⟨krstBody s, exec_krst s, krstBody_frame s, krstBody_prev_length s, latch_krstBody s⟩, ?word⟩
  case word => decide

end Sys2Proof.Machine

/-! ## Tempo Scheduler (spec/43_tempo_scheduler.md)

TADV is the law of its body, once per branch (R162, R163). Its 32-bit comparison is exact because the difference of two times that
lie less than 2^32 apart survives the wrap (R164). That no operation writes TEMPO is one column of a stronger frame, the pieces of
state that no operation writes (R24). -/

namespace Sys2Proof.Machine

/-! ### The interval -/

/-- The two floor divisions of the document's formula are one (R160). -/
theorem intervalMs_eq_div_div (bpm : Nat) : intervalMs bpm = 60000 / bpm / 4 := (Nat.div_right_comm 60000 bpm 4).symm

/-! ### TADV and the fault of ADVANCE -/

/-- TADV with TEMPO = 0 enters the fault TEMPO_ZERO, from the state TADV found (R163, R207). -/
theorem exec_tadv_of_zero (s : State) (h : s.tempo = 0#16) : exec .tadv s = .next (enterFault .tempoZero s) :=
  congrArg complete (tadvBody_of_zero s h)

/-- TADV takes a step boundary when the elapsed time has reached the interval (R162). -/
theorem exec_tadv_of_due (s : State) (h : s.tempo ≠ 0#16) (hd : 15000 / s.tempo.toNat ≤ (s.time - s.last).toNat) :
    exec .tadv s = .next (takeBoundary s) := congrArg complete (tadvBody_of_due s h hd)

/-- TADV before the interval has elapsed clears ADV (R162). -/
theorem exec_tadv_of_early (s : State) (h : s.tempo ≠ 0#16) (hd : (s.time - s.last).toNat < 15000 / s.tempo.toNat) :
    exec .tadv s = .next (noBoundary s) := congrArg complete (tadvBody_of_early s h hd)

/-- TADV sets ADV exactly when the elapsed time has reached the interval (R162). -/
theorem exec_tadv_adv_iff (s : State) (h : s.tempo ≠ 0#16) :
    ∃ t, exec .tadv s = .next t ∧ (t.adv = true ↔ 15000 / s.tempo.toNat ≤ (s.time - s.last).toNat) := by
  by_cases hd : 15000 / s.tempo.toNat ≤ (s.time - s.last).toNat
  · exact ⟨takeBoundary s, exec_tadv_of_due s h hd, iff_of_true rfl hd⟩
  · exact ⟨noBoundary s, exec_tadv_of_early s h (Nat.not_le.mp hd), iff_of_false (by simp) hd⟩

/-- ADVANCE with TEMPO = 0 enters the fault of its TADV, and the bit of the playhead stays (R163, R193). -/
theorem exec_advance_of_zero (s : State) (h : s.tempo = 0#16) : exec .advance s = .next (enterFault .tempoZero s) := by
  obtain ⟨-, hx⟩ | ⟨hne, -⟩ | ⟨hne, -⟩ := advance_cases s
  · exact hx
  · exact absurd h hne
  · exact absurd h hne

/-! ### The elapsed time -/

/-- The difference of the low 32 bits of two times less than 2^32 apart is their true difference (R164). -/
theorem ofNat_sub_ofNat_toNat (last now : Nat) (hle : last ≤ now) (hlt : now < last + 2 ^ 32) :
    (BitVec.ofNat 32 now - BitVec.ofNat 32 last).toNat = now - last := by
  obtain ⟨d, rfl⟩ := Nat.exists_eq_add_of_le hle
  rw [BitVec.ofNat_add, add_sub_cancel_left, BitVec.toNat_ofNat, Nat.add_sub_cancel_left]
  exact Nat.mod_eq_of_lt (by omega)

/-! ### What no operation writes (R24) -/

/-- The pieces of state that no operation writes (R24). -/
structure ReadOnly where
  cfg : Config
  tempo : BitVec 16
  time : Count
  upc : BitVec 8
  keyin : List Bool
  env : List EnvMove
  tick : Nat

/-- The pieces of `s` that no operation writes. -/
def State.readOnly (s : State) : ReadOnly := ⟨s.cfg, s.tempo, s.time, s.upc, s.keyin, s.env, s.tick⟩

theorem bufWriteBit_readOnly (s : State) (i : Nat) (a : Bool) : (bufWriteBit s i a).readOnly = s.readOnly := by
  rw [bufWriteBit_frame]; rfl

theorem flushBody_readOnly (s : State) : (flushBody s).readOnly = s.readOnly := by rw [flushBody_eq]; rfl

theorem kpollBody_readOnly (s : State) : (kpollBody s).readOnly = s.readOnly := by rw [kpollBody_frame]; rfl

theorem patWrite_readOnly (s : State) (v st : Nat) (a : Bool) :
    (progressState (patWrite s v st a)).readOnly = s.readOnly := by
  by_cases h : InPattern s.cfg v st
  · rw [patWrite_of_in s v st a h]; rfl
  · rw [patWrite_of_out s v st a h]; rfl

theorem pgetBody_readOnly (s : State) (v st : Nat) : (progressState (pgetBody v st s)).readOnly = s.readOnly := by
  by_cases h : InPattern s.cfg v st
  · rw [pgetBody_of_in s v st h]; rfl
  · rw [pgetBody_of_out s v st h]; rfl

theorem tadvBody_readOnly (s : State) : (progressState (tadvBody s)).readOnly = s.readOnly := by
  obtain ⟨-, h⟩ | ⟨-, -, h⟩ | ⟨-, -, h⟩ := tadvBody_cases s <;> rw [h] <;> rfl

theorem ndispBody_readOnly (s : State) (st : Nat) : (progressState (ndispBody st s)).readOnly = s.readOnly := by
  by_cases h : st < s.cfg.steps
  · rw [ndispBody_of_in s st h]; rfl
  · rw [ndispBody_of_out s st h]; rfl

/-- ADVANCE is the body of TADV, then at most one bit write. -/
theorem exec_advance_readOnly (s t : State) (h : exec .advance s = .next t) : t.readOnly = s.readOnly := by
  obtain ⟨-, hx⟩ | ⟨-, -, hx⟩ | ⟨-, -, hx⟩ := advance_cases s <;> rw [hx] at h <;> cases h
  · rfl
  · exact bufWriteBit_readOnly (takeBoundary s) _ _
  · rfl

/-- INPUT is the body of KPOLL, then at most one flag write or fault entry. -/
theorem exec_input_readOnly (s t : State) (h : exec .input s = .next t) : t.readOnly = s.readOnly := by
  obtain ⟨-, hx⟩ | ⟨-, -, hx⟩ | ⟨-, -, hx⟩ := input_cases s <;> rw [hx] at h <;> cases h <;>
    exact kpollBody_readOnly s

/-- No operation writes the configuration, TEMPO, TIME, UPC or the inputs (R24). -/
theorem exec_readOnly (i : Instr) (s t : State) (h : exec i s = .next t) : t.readOnly = s.readOnly := by
  cases i with
  | advance => exact exec_advance_readOnly s t h
  | input => exact exec_input_readOnly s t h
  | pset v st a => cases h; exact patWrite_readOnly s v st a
  | pget v st => cases h; exact pgetBody_readOnly s v st
  | bset i a => cases h; exact bufWriteBit_readOnly s i a
  | bget i => cases h; rfl
  | flush => cases h; exact flushBody_readOnly s
  | krst => cases h; rfl
  | kpoll => cases h; exact kpollBody_readOnly s
  | tadv => cases h; exact tadvBody_readOnly s
  | ndisp st => cases h; exact ndispBody_readOnly s st
  | render => cases h; exact (flushBody_readOnly _).trans (bufWriteBit_readOnly s _ _)
  | dispatch => cases h; exact ndispBody_readOnly s (playhead s)

/-- No operation writes TEMPO (R163). -/
theorem exec_tempo (i : Instr) (s t : State) (h : exec i s = .next t) : t.tempo = s.tempo :=
  congrArg ReadOnly.tempo (exec_readOnly i s t h)

/-- A well-formed configuration has BPM >= 1 (R8). -/
theorem bpm_ne_zero_of_wellFormed (c : Config) (h : c.WellFormed) : c.bpm ≠ 0#16 := by
  obtain ⟨-, -, hbpm, -⟩ := h
  exact hbpm

/-! ### The obligations -/

/-- Settles O32: ADV says whether the 32-bit difference has reached the interval, and that difference is the true one. -/
theorem modularComparisonIsExact : Obligations.ModularComparisonIsExact := by
  intro s last now htempo hlast htime hle hlt
  obtain ⟨t, ht, hadv⟩ := exec_tadv_adv_iff s htempo
  refine ⟨t, ht, hadv.trans ?_⟩
  rw [htime, hlast, ofNat_sub_ofNat_toNat last now hle hlt, Nat.le_sub_iff_add_le' hle]

/-- Settles O14: TADV and ADVANCE enter the fault; TEMPO resets to BPM, no operation writes it (`exec_tempo`), BPM is not 0. -/
theorem tempoZeroFaults : Obligations.TempoZeroFaults :=
  ⟨fun s h => ⟨exec_tadv_of_zero s h, exec_advance_of_zero s h⟩, fun _ => rfl, exec_tempo,
    fun s hc hb => hb ▸ bpm_ne_zero_of_wellFormed s.cfg hc⟩

/-- Settles O30: the two divisions commute, and a quotient is at most its dividend. -/
theorem intervalFormula : Obligations.IntervalFormula :=
  ⟨fun bpm _ => ⟨intervalMs_eq_div_div bpm, rfl, Nat.div_le_self 15000 bpm⟩, by decide, by decide⟩

/-- Settles O31: one branch of TADV's body for each side of the comparison, and one for TEMPO = 0. -/
theorem tadvTakesDueBoundary : Obligations.TadvTakesDueBoundary := by
  refine ⟨fun s h => ⟨exec_tadv_of_due s h, exec_tadv_of_early s h⟩, exec_tadv_of_zero, ?word⟩
  case word => decide

end Sys2Proof.Machine

/-! ## Note Dispatcher (spec/44_note_dispatcher.md)

NDISP in range and out of range, from the law of its body (`ndispBody_of_in`, `ndispBody_of_out`). The model filters the voices and
then maps; read voice by voice, the same list is one trigger or none for each voice in ascending order (R175). -/

namespace Sys2Proof.Machine

/-! ### The triggers of a step -/

/-- Keeping the elements that meet `p` and mapping them is one image or none for each element. -/
theorem map_filter_eq_flatMap {α β : Type} (p : α → Bool) (f : α → β) (l : List α) :
    (l.filter p).map f = l.flatMap fun a => if p a then [f a] else [] := by
  induction l with
  | nil => rfl
  | cons a l ih =>
    rw [List.flatMap_cons, ← ih]
    cases h : p a <;> simp [h]

/-- The triggers of step `st`, voice by voice (R175). -/
theorem map_triggerOf_activeVoices (s : State) (st : Nat) :
    (activeVoices s st).map (triggerOf s.cfg) =
      (List.range s.cfg.voices).flatMap fun v => if patFlag s v st then [triggerOf s.cfg v] else [] :=
  map_filter_eq_flatMap _ _ _

/-! ### The operation -/

/-- NDISP in range emits the triggers of its step, voice by voice (R175). -/
theorem exec_ndisp_of_in (s : State) (st : Nat) (h : st < s.cfg.steps) :
    exec (.ndisp st) s = .next (emitNotes
      ((List.range s.cfg.voices).flatMap fun v => if patFlag s v st then [triggerOf s.cfg v] else []) s) := by
  rw [← map_triggerOf_activeVoices]
  exact congrArg complete (ndispBody_of_in s st h)

/-- NDISP out of range enters the fault PATTERN_INDEX, from the state NDISP found (R175, R207). -/
theorem exec_ndisp_of_out (s : State) (st : Nat) (h : s.cfg.steps ≤ st) :
    exec (.ndisp st) s = .next (enterFault .patternIndex s) :=
  congrArg complete (ndispBody_of_out s st (Nat.not_lt.mpr h))

/-- The word of NDISP: opcode 9 and the step, every other field clear (R92, R175). -/
theorem encode_ndisp_toNat (st : Nat) (hst : st < 256) : (encode (.ndisp st)).toNat = 0x9000 + st :=
  assemble_toNat 0x9 0 st false (by omega) (by omega) hst

/-! ### The obligation -/

/-- Settles O35: in range the next state is `emitNotes` of the triggers read voice by voice, out of range fault entry from the same
state. -/
theorem ndispEmitsActiveVoices : Obligations.NdispEmitsActiveVoices :=
  ⟨exec_ndisp_of_in, exec_ndisp_of_out, encode_ndisp_toNat⟩

end Sys2Proof.Machine

/-! ## Control Loop (spec/45_control_loop.md)

The fetch-execute cycle is the law of `cycle` with two facts of `exec`: it answers a next state and moves neither UPC nor ROM
(R186). Each composite operation is put together from the laws of the bodies it runs (R187 to R190); a fault inside one leaves
the state that its earlier lines reached (R193). -/

namespace Sys2Proof.Machine

/-! ### The fetch-execute cycle (R186) -/

/-- A halted block keeps its state (R209). -/
theorem cycle_of_halted (e : State) (hf : e.fault = true) : cycle e = .next e := if_pos hf

/-- The fetch of an operation runs it, and then UPC moves (R186). -/
theorem cycle_of_operation (e t : State) (w : Word) (i : Instr) (hf : e.fault = false)
    (hw : e.cfg.rom[e.upc.toNat]? = some w) (hd : decode w = .ok i) (ht : exec i e = .next t) :
    cycle e = .next (afterOperation t) := by
  simp [cycle, hf, fetch_of_ok e w i hw hd, ht, conclude]

/-- No operation moves UPC (R186). -/
theorem exec_upc (i : Instr) (s t : State) (h : exec i s = .next t) : t.upc = s.upc :=
  congrArg ReadOnly.upc (exec_readOnly i s t h)

/-- UPC inside ROM advances by one (R186). -/
theorem advanceUpc_of_lt (s : State) (h : s.upc.toNat + 1 < s.cfg.rom.length) :
    advanceUpc s = { s with upc := BitVec.ofNat 8 (s.upc.toNat + 1) } := by
  rw [advanceUpc, if_pos h, BitVec.ofNat_add, BitVec.ofNat_toNat, BitVec.setWidth_eq]

/-- UPC at the end of ROM goes to LOOP_START (R186). -/
theorem advanceUpc_of_ge (s : State) (h : ¬s.upc.toNat + 1 < s.cfg.rom.length) :
    advanceUpc s = { s with upc := BitVec.ofNat 8 s.cfg.loopStart } := by
  rw [advanceUpc, if_neg h]

/-- The last lines of R186, branch by branch. -/
theorem afterOperation_eq (t : State) :
    afterOperation t =
      if t.fault = true then t
      else if t.upc.toNat + 1 < t.cfg.rom.length then { t with upc := BitVec.ofNat 8 (t.upc.toNat + 1) }
      else { t with upc := BitVec.ofNat 8 t.cfg.loopStart } := by
  split
  case isTrue hf => exact afterOperation_of_fault t hf
  case isFalse hf =>
    rw [afterOperation_of_ok t (Bool.eq_false_iff.mpr hf)]
    split
    case isTrue h => exact advanceUpc_of_lt t h
    case isFalse h => exact advanceUpc_of_ge t h

/-! ### RENDER (R187) -/

/-- A FLUSH changes no bit of BUF (R135). -/
theorem bufReadBit_flushBody (s : State) (j : Nat) : bufReadBit (flushBody s) j = bufReadBit s j :=
  bufReadBit_congr s (flushBody s) (by rw [flushBody_cfg]) (by rw [flushBody_eq]) j

/-- BUF after a FLUSH holds the frame that the FLUSH presented (R135). -/
theorem frameOf_flushBody (s : State) : frameOf (flushBody s) = frameOf s :=
  frameOf_congr s (flushBody s) (flushBody_cfg s) (by rw [flushBody_eq])

/-- A FLUSH keeps the sizes of the files. -/
theorem flushBody_sized (s : State) (hs : FilesSized s) : FilesSized (flushBody s) := by
  rw [flushBody_frame]
  exact hs

/-- A FLUSH appends its frame to LEDFRAMES (R136). -/
theorem flushBody_ledFrames (s : State) : ledFrames (flushBody s) = ledFrames s ++ [frameOf s] := by
  rw [ledFrames, flushBody_cfg, flushBody_ledTrace]
  exact framesFrom_append_flush _ _ _ _ _ (frameOf_length s)

/-- The body of RENDER: the LED bit of the playhead set, then the body of FLUSH (R187). -/
def renderBody (s : State) : State := flushBody (bufWriteBit s (playhead s) true)

/-- RENDER is its body, which cannot fault (R187). -/
theorem exec_render (s : State) : exec .render s = .next (renderBody s) := render_eq s

theorem renderBody_cfg (s : State) : (renderBody s).cfg = s.cfg := by rw [renderBody, flushBody_cfg, bufWriteBit_cfg]

/-- RENDER changes BUF, the three lines and LEDTRACE alone, and ends its pulses (R187). -/
theorem renderBody_frame (s : State) (h : 1 ≤ s.cfg.len) :
    renderBody s = { s with
      buf := (renderBody s).buf
      ledData := (renderBody s).ledData
      ledClk := false
      ledStrobe := false
      ledTrace := (renderBody s).ledTrace } := by
  have hframe : renderBody s = { s with
      buf := (renderBody s).buf
      ledData := (renderBody s).ledData
      ledClk := (renderBody s).ledClk
      ledStrobe := (renderBody s).ledStrobe
      ledTrace := (renderBody s).ledTrace } := by rw [renderBody, flushBody_eq, bufWriteBit_frame]
  have hclk : (renderBody s).ledClk = false := flushBody_ledClk _ (by rw [bufWriteBit_cfg]; exact h)
  have hstrobe : (renderBody s).ledStrobe = false := flushBody_ledStrobe _
  rwa [hclk, hstrobe] at hframe

/-- RENDER keeps FAULT (R193). -/
theorem renderBody_fault (s : State) : (renderBody s).fault = s.fault := by
  rw [renderBody, flushBody_eq, bufWriteBit_frame]

/-- RENDER keeps the sizes of the files. -/
theorem renderBody_sized (s : State) (hs : FilesSized s) : FilesSized (renderBody s) :=
  flushBody_sized _ (bufWriteBit_sized s _ _ hs)

/-- After RENDER the bit of the playhead is set if it is in range, and every other bit is as before (R187). -/
theorem bufReadBit_renderBody (s : State) (j : Nat) (hs : FilesSized s) :
    bufReadBit (renderBody s) j = if j = playhead s ∧ j < 8 * s.cfg.len then true else bufReadBit s j := by
  rw [renderBody, bufReadBit_flushBody, bufReadBit_bufWriteBit s _ j true hs]

/-- LEDTRACE grows by one FLUSH of the BUF that RENDER leaves (R187). -/
theorem renderBody_ledTrace (s : State) :
    (renderBody s).ledTrace = s.ledTrace ++ flushEvents (frameOf (renderBody s)) := by
  rw [renderBody, frameOf_flushBody, flushBody_ledTrace, bufWriteBit_frame]

/-- LEDTRACE grows by `24 * LEN + 2` events (R187). -/
theorem renderBody_ledTrace_length (s : State) :
    (renderBody s).ledTrace.length = s.ledTrace.length + (24 * s.cfg.len + 2) := by
  rw [renderBody_ledTrace, List.length_append, flushEvents_length, frameOf_length, renderBody_cfg]
  omega

/-- LEDFRAMES grows by the frame of the BUF that RENDER leaves (R187). -/
theorem renderBody_ledFrames (s : State) : ledFrames (renderBody s) = ledFrames s ++ [frameOf (renderBody s)] := by
  rw [renderBody, frameOf_flushBody, flushBody_ledFrames, ledFrames, bufWriteBit_frame]
  rfl

/-! ### DISPATCH (R188) -/

/-- The triggers of the voices active at the playhead, in ascending order (R188). -/
def dueTriggers (s : State) : List Trigger := (activeVoices s (playhead s)).map (triggerOf s.cfg)

/-- Emitting triggers changes none of those that are due: they look at PAT, STEP and the configuration (R188). -/
theorem dueTriggers_emitNotes (notes : List Trigger) (s : State) : dueTriggers (emitNotes notes s) = dueTriggers s := rfl

/-- DISPATCH emits the triggers that are due, and cannot fault, because the playhead is a step (R188). -/
theorem exec_dispatch (s : State) (h : 1 ≤ s.cfg.steps) : exec .dispatch s = .next (emitNotes (dueTriggers s) s) :=
  congrArg complete (ndispBody_of_in s (playhead s) (playhead_lt s h))

/-! ### ADVANCE (R189) -/

/-- ADVANCE on a step boundary clears the bit of the step that ended (R189). -/
theorem exec_advance_of_due (s : State) (h : s.tempo ≠ 0#16) (hd : 15000 / s.tempo.toNat ≤ (s.time - s.last).toNat) :
    exec .advance s = .next (bufWriteBit (takeBoundary s) (playhead s) false) := by
  obtain ⟨h0, -⟩ | ⟨-, -, hx⟩ | ⟨-, hlt, -⟩ := advance_cases s
  · exact absurd h0 h
  · exact hx
  · exact absurd hd (Nat.not_le.mpr hlt)

/-- ADVANCE before the interval has elapsed clears ADV and leaves BUF (R189). -/
theorem exec_advance_of_early (s : State) (h : s.tempo ≠ 0#16) (hd : (s.time - s.last).toNat < 15000 / s.tempo.toNat) :
    exec .advance s = .next (noBoundary s) := by
  obtain ⟨h0, -⟩ | ⟨-, hle, -⟩ | ⟨-, -, hx⟩ := advance_cases s
  · exact absurd h0 h
  · exact absurd hd (Nat.not_lt.mpr hle)
  · exact hx

/-- After a bit is cleared it reads 0, in range or not, and every other bit reads as before (R65, R66). -/
theorem bufReadBit_bufWriteBit_false (s : State) (i j : Nat) (hs : FilesSized s) :
    bufReadBit (bufWriteBit s i false) j = if j = i then false else bufReadBit s j := by
  by_cases hi : i < 8 * s.cfg.len
  · exact bufReadBit_bufWriteBit_of_lt s i j false hs hi
  · rw [bufWriteBit_of_ge s i false (Nat.not_lt.mp hi)]
    split
    case isTrue hji => rw [hji, bufReadBit_of_ge s i (Nat.not_lt.mp hi)]
    case isFalse => rfl

/-- An ADVANCE that faults has entered TEMPO_ZERO from the state it found (R193). -/
theorem exec_advance_faults (s t : State) (hf : s.fault = false) (h : exec .advance s = .next t) (ht : t.fault = true) :
    t = enterFault .tempoZero s := by
  obtain ⟨-, hx⟩ | ⟨-, -, hx⟩ | ⟨-, -, hx⟩ := advance_cases s <;> rw [hx] at h <;> cases h
  · rfl
  · rw [bufWriteBit_frame, takeBoundary_fault, hf] at ht
    cases ht
  · rw [noBoundary_fault, hf] at ht
    cases ht

/-! ### INPUT (R190) -/

/-- INPUT without an event is a KPOLL (R190). -/
theorem exec_input_of_none (s : State) (h : (kpollBody s).evt.valid = false) : exec .input s = .next (kpollBody s) := by
  obtain ⟨-, hx⟩ | ⟨hv, -⟩ | ⟨hv, -⟩ := input_cases s
  · exact hx
  · exact absurd hv (Bool.eq_false_iff.mp h)
  · exact absurd hv (Bool.eq_false_iff.mp h)

/-- INPUT with an event in range writes its transition (R190). -/
theorem exec_input_of_in (s : State) (h : (kpollBody s).evt.valid = true)
    (hp : InPattern s.cfg 0 (inputStep (kpollBody s))) :
    exec .input s = .next (setFlag (kpollBody s) 0 (inputStep (kpollBody s)) (kpollBody s).evt.pressed) := by
  obtain ⟨hv, -⟩ | ⟨-, -, hx⟩ | ⟨-, hout, -⟩ := input_cases s
  · exact absurd h (Bool.eq_false_iff.mp hv)
  · exact hx
  · exact absurd hp hout

/-- INPUT with an event out of range faults after its KPOLL (R190, R193). -/
theorem exec_input_of_out (s : State) (h : (kpollBody s).evt.valid = true)
    (hp : ¬InPattern s.cfg 0 (inputStep (kpollBody s))) :
    exec .input s = .next (enterFault .patternIndex (kpollBody s)) := by
  obtain ⟨hv, -⟩ | ⟨-, hin, -⟩ | ⟨-, -, hx⟩ := input_cases s
  · exact absurd h (Bool.eq_false_iff.mp hv)
  · exact absurd hin hp
  · exact hx

/-- The step INPUT writes is that of the event's key in the unchanged KEYMAP (R94). -/
theorem inputStep_kpollBody (s : State) :
    inputStep (kpollBody s) = keyStep s.cfg (kpollBody s).evt.key.toNat := by rw [inputStep, kpollBody_cfg]

/-- A KPOLL changes no flag (R147). -/
theorem patFlag_kpollBody (s : State) (v st : Nat) : patFlag (kpollBody s) v st = patFlag s v st := by
  rw [patFlag, kpollBody_frame]
  rfl

/-- A KPOLL keeps FAULT (R147). -/
theorem kpollBody_fault (s : State) : (kpollBody s).fault = s.fault := by rw [kpollBody_frame]

/-- A KPOLL keeps ROM and UPC, and so the word being executed (R25). -/
theorem currentWord_kpollBody (s : State) : currentWord (kpollBody s) = currentWord s := by
  rw [currentWord, kpollBody_frame]
  rfl

/-- Fault entry after a KPOLL records the word of the operation that ran it (R193). -/
theorem enterFault_kpollBody (cause : FaultCause) (s : State) :
    enterFault cause (kpollBody s) =
      { kpollBody s with fault := true, fcause := causeCode cause, finfo := currentWord s } := by
  rw [enterFault, currentWord_kpollBody]

/-- An INPUT that faults has entered PATTERN_INDEX from the state its KPOLL left (R193). -/
theorem exec_input_faults (s t : State) (hf : s.fault = false) (h : exec .input s = .next t) (ht : t.fault = true) :
    t = enterFault .patternIndex (kpollBody s) := by
  obtain ⟨-, hx⟩ | ⟨-, -, hx⟩ | ⟨-, -, hx⟩ := input_cases s <;> rw [hx] at h <;> cases h
  · rw [kpollBody_fault, hf] at ht
    cases ht
  · rw [setFlag_fault, kpollBody_fault, hf] at ht
    cases ht
  · rfl

/-! ### The obligations -/

/-- Settles O7: `cycle_of_illegal` for an illegal word; for an operation UPC and ROM after it are those before it, so the branches
of `afterOperation_eq` are those of R186. -/
theorem fetchExecuteCycle : Obligations.FetchExecuteCycle := by
  refine ⟨cycle_of_halted, fun e w hf hw => ⟨fun why => cycle_of_illegal e w why hf hw, fun i hd => ?operation⟩⟩
  obtain ⟨t, ht⟩ := exec_next i e
  have hu := exec_upc i e t ht
  refine ⟨t, ht, hu, ?_⟩
  rw [cycle_of_operation e t w i hf hw hd ht, afterOperation_eq, hu, exec_cfg i e t ht]

/-- Settles O37: RENDER is `renderBody`, whose events and frame are those of the BUF it leaves. -/
theorem renderLightsPlayhead : Obligations.RenderLightsPlayhead := by
  refine ⟨fun s hs hl => ⟨renderBody s, exec_render s, renderBody_frame s hl, renderBody_sized s hs,
    fun j => bufReadBit_renderBody s j hs, ?events, renderBody_ledTrace_length s, ?frames⟩, ?word⟩
  case events =>
    rw [renderBody_ledTrace, flushEvents_frameOf, renderBody_cfg, ← List.append_assoc]
    rfl
  case frames => rw [renderBody_ledFrames, frameOf, renderBody_cfg]
  case word => decide

/-- Settles O38: a DISPATCH emits the triggers that are due, and they are due again after it (`dueTriggers_emitNotes`). -/
theorem dispatchRepeatsTriggers : Obligations.DispatchRepeatsTriggers := by
  refine ⟨fun s h => ⟨emitNotes (dueTriggers s) s, emitNotes (dueTriggers s) (emitNotes (dueTriggers s) s), dueTriggers s,
    exec_dispatch s h, ?again, rfl, rfl, rfl⟩, ?word⟩
  case again => rw [exec_dispatch (emitNotes (dueTriggers s) s) h, dueTriggers_emitNotes]
  case word => decide

/-- Settles O39: one branch of ADVANCE for each side of TADV's comparison, and one for TEMPO = 0; the bit write is made in the state
after the boundary, which has the same BUF. -/
theorem advanceClearsEndedStep : Obligations.AdvanceClearsEndedStep := by
  refine ⟨fun s hs h => ⟨fun hd => ?due, exec_advance_of_early s h⟩, exec_advance_of_zero, ?word⟩
  case due =>
    exact ⟨bufWriteBit (takeBoundary s) (playhead s) false, exec_advance_of_due s h hd, bufWriteBit_frame (takeBoundary s) _ _,
      bufWriteBit_sized (takeBoundary s) _ _ hs, fun j => bufReadBit_bufWriteBit_false (takeBoundary s) _ j hs⟩
  case word => decide

/-- Settles O40: the state after KPOLL is `kpollBody`, and its event says which of the three outcomes of INPUT follows. -/
theorem inputAppliesKeyEvent : Obligations.InputAppliesKeyEvent := by
  refine ⟨fun s u hs hv hu => ?outcomes, ?word⟩
  case word => decide
  obtain rfl : kpollBody s = u := Host.Outcome.next.inj hu
  rw [← inputStep_kpollBody]
  refine ⟨exec_input_of_none s, fun he hst => ?inRange, fun he hst => ?outOfRange⟩
  case inRange =>
    have hsize := kpollBody_sized s hs
    have hvoice : 0 < (kpollBody s).cfg.voices := by rwa [kpollBody_cfg]
    have hstep : inputStep (kpollBody s) < (kpollBody s).cfg.steps := by rwa [kpollBody_cfg]
    refine ⟨_, exec_input_of_in s he ⟨hv, hst⟩, rfl, setFlag_sized _ _ _ _ hsize, fun v st => ?_⟩
    rw [patFlag_setFlag _ _ _ v st _ hsize hvoice hstep, patFlag_kpollBody]
  case outOfRange =>
    have hout : ¬InPattern s.cfg 0 (inputStep (kpollBody s)) := fun ⟨_, hlt⟩ => Nat.not_lt.mpr hst hlt
    rw [exec_input_of_out s he hout, enterFault_kpollBody]
    rfl

/-- Settles O15: each faulting composite operation is fault entry from the state its earlier lines reached. -/
theorem compositeFaultsKeepEarlierLines : Obligations.CompositeFaultsKeepEarlierLines := by
  refine ⟨fun s hc => ⟨?render, ?dispatch⟩, exec_advance_faults, fun s t hf _ h ht => ?input, fun s t st hst h => ?ndisp⟩
  case render => exact ⟨renderBody s, exec_render s, renderBody_fault s⟩
  case dispatch =>
    obtain ⟨-, ⟨hsteps, -⟩, -⟩ := hc
    exact ⟨_, exec_dispatch s hsteps, emitNotes_fault _ s⟩
  case input =>
    exact ⟨kpollBody s, exec_kpoll s, (kpollBody_fault s).trans hf,
      (exec_input_faults s t hf h ht).trans (enterFault_kpollBody .patternIndex s)⟩
  case ndisp =>
    rw [exec_ndisp_of_out s st hst] at h
    cases h
    exact ⟨rfl, rfl, rfl⟩

end Sys2Proof.Machine

/-! ## Exceptions (spec/60_exceptions.md)

Fault entry is the one way FAULT becomes 1 (R207). Each operation but INPUT enters it, if at all, from the state the operation
found, which is its precision (R208); INPUT enters it from the state its KPOLL left (`exec_input_faults`). In both cases the word
at UPC is the one fetched, so FINFO decodes to the operation that faulted (R210). -/

namespace Sys2Proof.Machine

/-! ### Fault entry (R207) -/

/-- FCAUSE is not 0 after fault entry (R28). -/
theorem causeCode_ne_zero (cause : FaultCause) : causeCode cause ≠ 0#2 := by cases cause <;> decide

/-- A raise ends the operation in fault entry; the rest of its body does not run (R207). -/
theorem complete_raise_andThen (cause : FaultCause) (s : State) (rest : State → Progress) :
    complete (andThen (raise cause s) rest) = .next (enterFault cause s) := by
  rw [andThen_raise, complete, progressState_raise]

/-- The sequencer leaves fault entry as it is: UPC stays (R186, R207). -/
theorem conclude_enterFault (cause : FaultCause) (s : State) :
    conclude (.next (enterFault cause s)) = .next (enterFault cause s) :=
  congrArg Host.Outcome.next (afterOperation_of_fault _ (enterFault_fault cause s))

/-- The advance of UPC keeps FAULT (R186). -/
theorem afterOperation_fault (t : State) : (afterOperation t).fault = t.fault := by
  unfold afterOperation
  split
  · rfl
  · exact advanceUpc_fault t

/-! ### Precision (R208) -/

/-- FAULT is the same in `t` as in `s`, or `t` is fault entry from `s` itself. -/
def FaultsInPlace (s t : State) : Prop := t.fault = s.fault ∨ ∃ cause, t = enterFault cause s

theorem bufWriteBit_fault (s : State) (i : Nat) (a : Bool) : (bufWriteBit s i a).fault = s.fault := by
  rw [bufWriteBit_frame]

theorem flushBody_fault (s : State) : (flushBody s).fault = s.fault := by rw [flushBody_eq]

theorem patWrite_faultsInPlace (s : State) (v st : Nat) (a : Bool) :
    FaultsInPlace s (progressState (patWrite s v st a)) := by
  by_cases h : InPattern s.cfg v st
  · rw [patWrite_of_in s v st a h]; exact .inl (setFlag_fault s v st a)
  · rw [patWrite_of_out s v st a h]; exact .inr ⟨.patternIndex, rfl⟩

theorem pgetBody_faultsInPlace (s : State) (v st : Nat) : FaultsInPlace s (progressState (pgetBody v st s)) := by
  by_cases h : InPattern s.cfg v st
  · rw [pgetBody_of_in s v st h]; exact .inl (setR_fault _ s)
  · rw [pgetBody_of_out s v st h]; exact .inr ⟨.patternIndex, rfl⟩

theorem tadvBody_faultsInPlace (s : State) : FaultsInPlace s (progressState (tadvBody s)) := by
  obtain ⟨-, h⟩ | ⟨-, -, h⟩ | ⟨-, -, h⟩ := tadvBody_cases s <;> rw [h]
  · exact .inr ⟨.tempoZero, rfl⟩
  · exact .inl (takeBoundary_fault s)
  · exact .inl (noBoundary_fault s)

theorem ndispBody_faultsInPlace (s : State) (st : Nat) : FaultsInPlace s (progressState (ndispBody st s)) := by
  by_cases h : st < s.cfg.steps
  · rw [ndispBody_of_in s st h]; exact .inl (emitNotes_fault _ s)
  · rw [ndispBody_of_out s st h]; exact .inr ⟨.patternIndex, rfl⟩

/-- ADVANCE faults in the body of TADV, before it writes anything (R193). -/
theorem exec_advance_faultsInPlace (s t : State) (h : exec .advance s = .next t) : FaultsInPlace s t := by
  obtain ⟨-, hx⟩ | ⟨-, -, hx⟩ | ⟨-, -, hx⟩ := advance_cases s <;> rw [hx] at h <;> cases h
  · exact .inr ⟨.tempoZero, rfl⟩
  · exact .inl (bufWriteBit_fault (takeBoundary s) _ _)
  · exact .inl (noBoundary_fault s)

/-- Every operation but INPUT keeps FAULT or enters a fault from the state it found (R208). -/
theorem exec_faultsInPlace (i : Instr) (s t : State) (hi : i ≠ .input) (h : exec i s = .next t) : FaultsInPlace s t := by
  cases i with
  | input => exact absurd rfl hi
  | advance => exact exec_advance_faultsInPlace s t h
  | pset v st a => cases h; exact patWrite_faultsInPlace s v st a
  | pget v st => cases h; exact pgetBody_faultsInPlace s v st
  | bset i a => cases h; exact .inl (bufWriteBit_fault s i a)
  | bget i => cases h; exact .inl (setR_fault _ s)
  | flush => cases h; exact .inl (flushBody_fault s)
  | krst => cases h; exact .inl (krstBody_fault s)
  | kpoll => cases h; exact .inl (kpollBody_fault s)
  | tadv => cases h; exact tadvBody_faultsInPlace s
  | ndisp st => cases h; exact ndispBody_faultsInPlace s st
  | render => cases h; exact .inl (renderBody_fault s)
  | dispatch => cases h; exact ndispBody_faultsInPlace s (playhead s)

/-- An operation other than INPUT that faults is fault entry from the state it found (R208). -/
theorem exec_faults (i : Instr) (s t : State) (hi : i ≠ .input) (hf : s.fault = false) (h : exec i s = .next t)
    (ht : t.fault = true) : ∃ cause, t = enterFault cause s := by
  obtain hkept | hentered := exec_faultsInPlace i s t hi h
  · rw [hkept, hf] at ht
    cases ht
  · exact hentered

/-! ### FINFO (R210) -/

/-- An operation that faults records the word at UPC in FINFO (R207). -/
theorem exec_faults_finfo (i : Instr) (s t : State) (hf : s.fault = false) (h : exec i s = .next t) (ht : t.fault = true) :
    t.finfo = currentWord s := by
  by_cases hi : i = .input
  · subst hi
    rw [exec_input_faults s t hf h ht, enterFault_finfo, currentWord_kpollBody]
  · obtain ⟨cause, rfl⟩ := exec_faults i s t hi hf h ht
    exact enterFault_finfo cause s

/-- After the cycle of an operation that faults FINFO holds the word fetched (R207). -/
theorem cycle_faults_finfo (e t : State) (w : Word) (i : Instr) (hf : e.fault = false)
    (hw : e.cfg.rom[e.upc.toNat]? = some w) (hd : decode w = .ok i) (h : cycle e = .next t) (ht : t.fault = true) :
    t.finfo = w := by
  obtain ⟨u, hu⟩ := exec_next i e
  rw [cycle_of_operation e u w i hf hw hd hu] at h
  obtain rfl : afterOperation u = t := Host.Outcome.next.inj h
  rw [afterOperation_fault] at ht
  rw [afterOperation_of_fault u ht, exec_faults_finfo i e u hf hu ht, currentWord_of_get e w hw]

/-! ### The obligations -/

/-- Settles O13: each access out of range is fault entry, after the KPOLL for INPUT; the playhead of DISPATCH is in range. -/
theorem patternIndexFaults : Obligations.PatternIndexFaults := by
  refine ⟨fun s v st a hout => ?access, exec_ndisp_of_out, fun s u hu hv hst => ?input, fun s hc => ?dispatch,
    fun e t w i hf hw hd h ht => ?finfo⟩
  case access =>
    have hout : ¬InPattern s.cfg v st := fun ⟨hv, hst⟩ => by omega
    exact ⟨exec_pset_of_out s v st a hout, exec_pget_of_out s v st hout⟩
  case input =>
    obtain rfl : kpollBody s = u := Host.Outcome.next.inj hu
    rw [← inputStep_kpollBody] at hst
    have hout : ¬InPattern s.cfg 0 (inputStep (kpollBody s)) := fun ⟨_, hlt⟩ => Nat.not_lt.mpr hst hlt
    refine ⟨?_, by rw [kpollBody_frame]⟩
    rw [exec_input_of_out s hv hout, enterFault_kpollBody]
    rfl
  case dispatch =>
    obtain ⟨-, ⟨hsteps, -⟩, -⟩ := hc
    exact ⟨_, exec_dispatch s hsteps, emitNotes_fault _ s, emitNotes_fcause _ s⟩
  case finfo => rw [cycle_faults_finfo e t w i hf hw hd h ht, hd]

/-- Settles O16: a fault is fault entry from the state the operation found, for INPUT from the state after its KPOLL. -/
theorem faultsArePrecise : Obligations.FaultsArePrecise := by
  refine ⟨fun i s t hi hf h ht => ?operation, fun s t hf h ht => ?input, fun e t w why hf hw hd h => ?illegal⟩
  case operation =>
    obtain ⟨cause, rfl⟩ := exec_faults i s t hi hf h ht
    exact ⟨rfl, causeCode_ne_zero cause, rfl⟩
  case input =>
    obtain rfl := exec_input_faults s t hf h ht
    exact ⟨kpollBody s, exec_kpoll s, rfl⟩
  case illegal =>
    rw [cycle_of_illegal e w why hf hw hd] at h
    cases h
    rfl

/-- Settles O12: the state named is fault entry, which ends the operation and which the sequencer leaves as it is. -/
theorem faultEntryHaltsInPlace : Obligations.FaultEntryHaltsInPlace := by
  intro cause rest s t
  have hentry : enterFault cause s = t := by cases cause <;> rfl
  rw [complete_raise_andThen, conclude_enterFault, hentry]
  exact ⟨rfl, rfl, rfl⟩

end Sys2Proof.Machine

/-! ## Frames (spec/10_state.md)

What each operation may write, said once for all thirteen (`exec_written`): the state after it is the state before it with the
pieces of its row of R24's table, and perhaps fault entry. The columns of the table are then read off `written`. -/

namespace Sys2Proof.Machine

/-! ### The pieces an operation writes (R24) -/

/-- `s` with the pieces that `i` may write taken from `t` (R24, the column "written by"). -/
def written (i : Instr) (s t : State) : State :=
  match i with
  | .pset _ _ _ => { s with pat := t.pat }
  | .pget _ _ | .bget _ => { s with r := t.r }
  | .bset _ _ => { s with buf := t.buf }
  | .flush => { s with ledData := t.ledData, ledClk := t.ledClk, ledStrobe := t.ledStrobe, ledTrace := t.ledTrace }
  | .krst | .kpoll => { s with prev := t.prev, evt := t.evt }
  | .tadv => { s with step := t.step, last := t.last, adv := t.adv }
  | .ndisp _ | .dispatch => { s with noteTrace := t.noteTrace }
  | .render => { s with
      buf := t.buf, ledData := t.ledData, ledClk := t.ledClk, ledStrobe := t.ledStrobe, ledTrace := t.ledTrace }
  | .advance => { s with buf := t.buf, step := t.step, last := t.last, adv := t.adv }
  | .input => { s with pat := t.pat, prev := t.prev, evt := t.evt }

/-- `t` is `s` with the pieces that `i` writes, or fault entry from that state. -/
def WritesOnly (i : Instr) (s t : State) : Prop :=
  t = written i s t ∨ ∃ cause, t = enterFault cause (written i s t)

/-- The body of NDISP writes NOTETRACE alone, or faults (R175). -/
theorem ndispBody_written (s : State) (st : Nat) :
    WritesOnly (.ndisp st) s (progressState (ndispBody st s)) := by
  by_cases h : st < s.cfg.steps
  · rw [ndispBody_of_in s st h]; exact .inl rfl
  · rw [ndispBody_of_out s st h]; exact .inr ⟨.patternIndex, rfl⟩

/-- PSET writes PAT alone, or faults (R120). -/
theorem exec_pset_written (s t : State) (v st : Nat) (a : Bool) (h : exec (.pset v st a) s = .next t) :
    WritesOnly (.pset v st a) s t := by
  by_cases hp : InPattern s.cfg v st
  · rw [exec_pset_of_in s v st a hp] at h; cases h; exact .inl rfl
  · rw [exec_pset_of_out s v st a hp] at h; cases h; exact .inr ⟨.patternIndex, rfl⟩

/-- PGET writes R alone, or faults (R121). -/
theorem exec_pget_written (s t : State) (v st : Nat) (h : exec (.pget v st) s = .next t) :
    WritesOnly (.pget v st) s t := by
  by_cases hp : InPattern s.cfg v st
  · rw [exec_pget_of_in s v st hp] at h; cases h; exact .inl rfl
  · rw [exec_pget_of_out s v st hp] at h; cases h; exact .inr ⟨.patternIndex, rfl⟩

/-- TADV writes STEP, LAST and ADV, or faults (R162). -/
theorem tadvBody_written (s : State) : WritesOnly .tadv s (progressState (tadvBody s)) := by
  obtain ⟨-, h⟩ | ⟨-, -, h⟩ | ⟨-, -, h⟩ := tadvBody_cases s <;> rw [h]
  · exact .inr ⟨.tempoZero, rfl⟩
  · exact .inl rfl
  · exact .inl rfl

/-- ADVANCE writes what TADV writes and BUF, or faults (R189). -/
theorem exec_advance_written (s t : State) (h : exec .advance s = .next t) : WritesOnly .advance s t := by
  obtain ⟨-, hx⟩ | ⟨-, -, hx⟩ | ⟨-, -, hx⟩ := advance_cases s <;> rw [hx] at h <;> cases h
  · exact .inr ⟨.tempoZero, rfl⟩
  · rw [bufWriteBit_frame]; exact .inl rfl
  · exact .inl rfl

/-- INPUT writes what KPOLL writes and PAT, or faults (R190). -/
theorem exec_input_written (s t : State) (h : exec .input s = .next t) : WritesOnly .input s t := by
  obtain ⟨-, hx⟩ | ⟨-, -, hx⟩ | ⟨-, -, hx⟩ := input_cases s <;> rw [hx] at h <;> cases h <;> rw [kpollBody_frame]
  · exact .inl rfl
  · exact .inl rfl
  · exact .inr ⟨.patternIndex, rfl⟩

/-- Every operation writes the pieces of its row of R24's table and no other, or enters a fault besides. -/
theorem exec_written (i : Instr) (s t : State) (h : exec i s = .next t) : WritesOnly i s t := by
  cases i with
  | pset v st a => exact exec_pset_written s t v st a h
  | pget v st => exact exec_pget_written s t v st h
  | advance => exact exec_advance_written s t h
  | input => exact exec_input_written s t h
  | bset i a => cases h; exact .inl (bufWriteBit_frame s i a)
  | bget i => cases h; exact .inl rfl
  | flush => cases h; exact .inl (flushBody_frame s)
  | krst => cases h; exact .inl rfl
  | kpoll => cases h; exact .inl (kpollBody_frame s)
  | tadv => cases h; exact tadvBody_written s
  | ndisp st => cases h; exact ndispBody_written s st
  | render => cases h; rw [flushBody_eq, bufWriteBit_frame]; exact .inl rfl
  | dispatch => cases h; exact ndispBody_written s (playhead s)

/-! ### The columns of the table (R24) -/

/-- A piece of state outside the status group is that of `written`. -/
theorem WritesOnly.field {α : Type} (f : State → α) (hf : ∀ cause u, f (enterFault cause u) = f u) {i : Instr} {s t : State}
    (h : WritesOnly i s t) : f t = f (written i s t) := by
  obtain h | ⟨cause, h⟩ := h
  · exact congrArg f h
  · exact (congrArg f h).trans (hf cause _)

/-- PAT is written by PSET and INPUT alone. -/
theorem exec_pat_writers (i : Instr) (s t : State) (h : exec i s = .next t) :
    t.pat ≠ s.pat → (∃ v st a, i = .pset v st a) ∨ i = .input := by
  rw [(exec_written i s t h).field State.pat enterFault_pat]
  cases i <;> simp [written]

/-- STEP, LAST and ADV are written by TADV and ADVANCE alone. -/
theorem exec_scheduler_writers (i : Instr) (s t : State) (h : exec i s = .next t) :
    t.step ≠ s.step ∨ t.last ≠ s.last ∨ t.adv ≠ s.adv → i = .tadv ∨ i = .advance := by
  have hw := exec_written i s t h
  rw [hw.field State.step enterFault_step, hw.field State.last enterFault_last, hw.field State.adv enterFault_adv]
  cases i <;> simp [written]

/-- BUF is written by BSET, RENDER and ADVANCE alone. -/
theorem exec_buf_writers (i : Instr) (s t : State) (h : exec i s = .next t) :
    t.buf ≠ s.buf → (∃ j a, i = .bset j a) ∨ i = .render ∨ i = .advance := by
  rw [(exec_written i s t h).field State.buf enterFault_buf]
  cases i <;> simp [written]

/-- PREV and EVT are written by KRST, KPOLL and INPUT alone. -/
theorem exec_keypad_writers (i : Instr) (s t : State) (h : exec i s = .next t) :
    t.prev ≠ s.prev ∨ t.evt ≠ s.evt → i = .krst ∨ i = .kpoll ∨ i = .input := by
  have hw := exec_written i s t h
  rw [hw.field State.prev enterFault_prev, hw.field State.evt enterFault_evt]
  cases i <;> simp [written]

/-- R is written by PGET and BGET alone. -/
theorem exec_r_writers (i : Instr) (s t : State) (h : exec i s = .next t) :
    t.r ≠ s.r → (∃ v st, i = .pget v st) ∨ ∃ j, i = .bget j := by
  rw [(exec_written i s t h).field State.r enterFault_r]
  cases i <;> simp [written]

/-- The LED lines and LEDTRACE are written by FLUSH and RENDER alone. -/
theorem exec_led_writers (i : Instr) (s t : State) (h : exec i s = .next t) :
    t.ledData ≠ s.ledData ∨ t.ledClk ≠ s.ledClk ∨ t.ledStrobe ≠ s.ledStrobe ∨ t.ledTrace ≠ s.ledTrace →
      i = .flush ∨ i = .render := by
  have hw := exec_written i s t h
  rw [hw.field State.ledData enterFault_ledData, hw.field State.ledClk enterFault_ledClk,
    hw.field State.ledStrobe enterFault_ledStrobe, hw.field State.ledTrace enterFault_ledTrace]
  cases i <;> simp [written]

/-- NOTETRACE is written by NDISP and DISPATCH alone. -/
theorem exec_note_writers (i : Instr) (s t : State) (h : exec i s = .next t) :
    t.noteTrace ≠ s.noteTrace → (∃ st, i = .ndisp st) ∨ i = .dispatch := by
  rw [(exec_written i s t h).field State.noteTrace enterFault_noteTrace]
  cases i <;> simp [written]

/-- No operation writes the status group by itself. -/
theorem written_status (i : Instr) (s t : State) :
    (written i s t).fault = s.fault ∧ (written i s t).fcause = s.fcause ∧ (written i s t).finfo = s.finfo ∧
      currentWord (written i s t) = currentWord s := by
  cases i <;> exact ⟨rfl, rfl, rfl, rfl⟩

/-- The status group is written by fault entry alone (R28, R207). -/
theorem exec_status_writers (i : Instr) (s t : State) (h : exec i s = .next t) :
    t.fault ≠ s.fault ∨ t.fcause ≠ s.fcause ∨ t.finfo ≠ s.finfo →
      t.fault = true ∧ t.fcause ≠ 0#2 ∧ t.finfo = currentWord s := by
  obtain ⟨hf, hc, hi, hword⟩ := written_status i s t
  obtain hkept | ⟨cause, hentered⟩ := exec_written i s t h
  · rw [← hkept] at hf hc hi
    rintro (hne | hne | hne)
    · exact absurd hf hne
    · exact absurd hc hne
    · exact absurd hi hne
  · rw [hentered, enterFault_finfo, hword]
    exact fun _ => ⟨rfl, causeCode_ne_zero cause, rfl⟩

/-- Settles O47: `exec_readOnly` for what no operation writes, and then the columns of the table one by one. -/
theorem writersOfEachState : Obligations.WritersOfEachState := by
  intro i s t h
  obtain ⟨hcfg, htempo, htime, hupc, hkeyin, henv, htick⟩ := ReadOnly.mk.inj (exec_readOnly i s t h)
  exact ⟨hcfg, htempo, htime, hkeyin, henv, htick, hupc, exec_pat_writers i s t h, exec_scheduler_writers i s t h,
    exec_buf_writers i s t h, exec_keypad_writers i s t h, exec_r_writers i s t h, exec_led_writers i s t h,
    exec_note_writers i s t h, exec_status_writers i s t h⟩

/-! ### What every operation keeps -/

/-- `P` is kept by each of the parts that operations are made of. -/
structure KeptByParts (P : State → Prop) : Prop where
  entry : ∀ cause s, P s → P (enterFault cause s)
  flag : ∀ s v st a, P s → P (setFlag s v st a)
  result : ∀ b s, P s → P (setR b s)
  bit : ∀ s j a, P s → P (bufWriteBit s j a)
  flush : ∀ s, P s → P (flushBody s)
  scan : ∀ s, P s → P (krstBody s)
  poll : ∀ s, P s → P (kpollBody s)
  boundary : ∀ s, P s → P (takeBoundary s)
  early : ∀ s, P s → P (noBoundary s)
  notes : ∀ notes s, P s → P (emitNotes notes s)

section KeptByParts

variable {P : State → Prop} (hP : KeptByParts P)

include hP

theorem KeptByParts.keeps_ndispBody (st : Nat) (s : State) (hs : P s) : P (progressState (ndispBody st s)) := by
  by_cases h : st < s.cfg.steps
  · rw [ndispBody_of_in s st h]; exact hP.notes _ s hs
  · rw [ndispBody_of_out s st h]; exact hP.entry _ s hs

theorem KeptByParts.keeps_patWrite (s : State) (v st : Nat) (a : Bool) (hs : P s) : P (progressState (patWrite s v st a)) := by
  by_cases h : InPattern s.cfg v st
  · rw [patWrite_of_in s v st a h]; exact hP.flag s v st a hs
  · rw [patWrite_of_out s v st a h]; exact hP.entry _ s hs

theorem KeptByParts.keeps_pgetBody (s : State) (v st : Nat) (hs : P s) : P (progressState (pgetBody v st s)) := by
  by_cases h : InPattern s.cfg v st
  · rw [pgetBody_of_in s v st h]; exact hP.result _ s hs
  · rw [pgetBody_of_out s v st h]; exact hP.entry _ s hs

theorem KeptByParts.keeps_tadvBody (s : State) (hs : P s) : P (progressState (tadvBody s)) := by
  obtain ⟨-, h⟩ | ⟨-, -, h⟩ | ⟨-, -, h⟩ := tadvBody_cases s <;> rw [h]
  · exact hP.entry _ s hs
  · exact hP.boundary s hs
  · exact hP.early s hs

theorem KeptByParts.keeps_advance (s t : State) (hs : P s) (h : exec .advance s = .next t) : P t := by
  obtain ⟨-, hx⟩ | ⟨-, -, hx⟩ | ⟨-, -, hx⟩ := advance_cases s <;> rw [hx] at h <;> cases h
  · exact hP.entry _ s hs
  · exact hP.bit _ _ _ (hP.boundary s hs)
  · exact hP.early s hs

theorem KeptByParts.keeps_input (s t : State) (hs : P s) (h : exec .input s = .next t) : P t := by
  obtain ⟨-, hx⟩ | ⟨-, -, hx⟩ | ⟨-, -, hx⟩ := input_cases s <;> rw [hx] at h <;> cases h
  · exact hP.poll s hs
  · exact hP.flag _ _ _ _ (hP.poll s hs)
  · exact hP.entry _ _ (hP.poll s hs)

/-- What the parts keep, every operation keeps. -/
theorem KeptByParts.keeps_exec (i : Instr) (s t : State) (hs : P s) (h : exec i s = .next t) : P t := by
  cases i with
  | advance => exact hP.keeps_advance s t hs h
  | input => exact hP.keeps_input s t hs h
  | pset v st a => cases h; exact hP.keeps_patWrite s v st a hs
  | pget v st => cases h; exact hP.keeps_pgetBody s v st hs
  | bset i a => cases h; exact hP.bit s i a hs
  | bget i => cases h; exact hP.result _ s hs
  | flush => cases h; exact hP.flush s hs
  | krst => cases h; exact hP.scan s hs
  | kpoll => cases h; exact hP.poll s hs
  | tadv => cases h; exact hP.keeps_tadvBody s hs
  | ndisp st => cases h; exact hP.keeps_ndispBody st s hs
  | render => cases h; exact hP.flush _ (hP.bit s _ _ hs)
  | dispatch => cases h; exact hP.keeps_ndispBody _ s hs

end KeptByParts

/-- The parts keep the sizes of the register files (R21, R33, R34). -/
theorem filesSized_keptByParts : KeptByParts FilesSized where
  entry _ _ hs := hs
  flag := setFlag_sized
  result _ _ hs := hs
  bit := bufWriteBit_sized
  flush := flushBody_sized
  scan := krstBody_sized
  poll := kpollBody_sized
  boundary _ hs := hs
  early _ hs := hs
  notes _ _ hs := hs

/-- KRST keeps the invariant: it leaves no event (R146). -/
theorem krstBody_wf (s : State) (h : s.Wf) : (krstBody s).Wf := by
  obtain ⟨hcfg, hfiles, hupc, htempo, hstatus, -, hlines⟩ := h
  exact ⟨hcfg, krstBody_sized s hfiles, hupc, htempo, hstatus, ⟨fun h => absurd h (by simp [KeyEvent.absent]), fun _ => rfl⟩,
    hlines⟩

/-- The parts keep the invariant. -/
theorem wf_keptByParts : KeptByParts State.Wf where
  entry := enterFault_wf
  flag := setFlag_wf
  result _ _ hs := hs
  bit := bufWriteBit_wf
  flush := flushBody_wf
  scan := krstBody_wf
  poll := kpollBody_wf
  boundary _ hs := hs
  early _ hs := hs
  notes _ _ hs := hs

/-- Both traces of `t` continue those of `s` (R38). -/
def TracesExtend (s t : State) : Prop := s.ledTrace <+: t.ledTrace ∧ s.noteTrace <+: t.noteTrace

/-- The parts only append to the traces (R38). -/
theorem tracesExtend_keptByParts (s : State) : KeptByParts (TracesExtend s) where
  entry _ _ hs := hs
  flag _ _ _ _ hs := hs
  result _ _ hs := hs
  bit u j a hs := by rw [bufWriteBit_frame]; exact hs
  flush u hs := by
    rw [flushBody_eq]
    exact ⟨hs.1.trans (List.prefix_append _ _), hs.2⟩
  scan _ hs := hs
  poll u hs := by rw [kpollBody_frame]; exact hs
  boundary _ hs := hs
  early _ hs := hs
  notes _ _ hs := ⟨hs.1, hs.2.trans (List.prefix_append _ _)⟩

end Sys2Proof.Machine

/-! ## Steps and runs (spec/45_control_loop.md section 1, spec/60_exceptions.md section 3)

A step is the environment's move and then one of four things (`step_cases`), and what the parts of the operations keep, a step
keeps (`KeptByParts`). A claim about runs is a claim about one step carried through `run_reaches`. -/

namespace Sys2Proof.Machine

/-! ### The environment (R27, R35) -/

/-- The move that a state names is the next one. -/
theorem nextMove_of_cons (s : State) (move : EnvMove) (rest : List EnvMove) (h : s.env = move :: rest) : nextMove s = move := by
  rw [nextMove, h]

/-- A key reads as pressed exactly when its level is the one of a closed switch, if every key has a level (R35). -/
theorem pressedVector_getD_iff (c : Config) (levels : List Bool) (hl : levels.length = c.keyCount) (k : Nat)
    (hk : k < c.keyCount) :
    (pressedVector c levels).getD k false = true ↔ levels[k]? = some c.valueWhenPressed := by
  simp [pressedVector, List.getD_eq_getElem?_getD, hk, hl]

/-- Settles O6: the state names the move, so the new TIME and KEYIN are those of the move. -/
theorem environmentMovesInputs : Obligations.EnvironmentMovesInputs := by
  intro s move rest henv hl
  have hmove := nextMove_of_cons s move rest henv
  refine ⟨?frame, ?size, fun k hk => ?level⟩
  case frame =>
    have htime : s.time + move.elapsed = BitVec.ofNat 32 (s.time.toNat + move.elapsed.toNat) := by
      apply BitVec.eq_of_toNat_eq; simp
    rw [← htime, ← hmove, environment, henv]
    rfl
  case size => simp [pressedVector]
  case level => rw [environment_keyin, hmove]; exact pressedVector_getD_iff s.cfg move.levels hl k hk

/-! ### One step (R186) -/

/-- A halted block lets the inputs move and does nothing else (R209). -/
theorem step_of_halted (s : State) (hf : s.fault = true) : step s = .next (environment s) :=
  cycle_of_halted (environment s) hf

/-- A step runs the operation at UPC on the state that the environment left (R186). -/
theorem step_of_operation (s t : State) (w : Word) (i : Instr) (hf : s.fault = false)
    (hw : s.cfg.rom[s.upc.toNat]? = some w) (hd : decode w = .ok i) (ht : exec i (environment s) = .next t) :
    step s = .next (afterOperation t) := cycle_of_operation (environment s) t w i hf hw hd ht

/-- Settles O5: `step_of_operation`, with the next state that `exec` answers. -/
theorem stepRunsDecodedInstruction : Obligations.StepRunsDecodedInstruction := by
  intro s w i hf hw hd
  obtain ⟨t, ht⟩ := exec_next i (environment s)
  rw [step_of_operation s t w i hf hw hd ht, ht]

/-- Settles O8: the fetch finds nothing, and the cycle stops. -/
theorem fetchOutsideRomStops : Obligations.FetchOutsideRomStops := by
  intro s hf hw
  have hfetch : fetch (environment s) = .outside := fetch_of_none (environment s) hw
  rw [step, cycle, hfetch, environment_fault, hf]
  rfl

/-- Settles O9: the step of a halted block is the environment's move alone. -/
theorem haltedBlockKeepsState : Obligations.HaltedBlockKeepsState := fun s hf =>
  ⟨environment s, step_of_halted s hf, rfl, rfl, rfl⟩

/-! ### Runs -/

/-- Where every state that meets `P` takes a step to one that meets `P`, a run of any length is taken and ends in one. -/
theorem run_reaches (M : Host.Core) (P : M.State → Prop) (hstep : ∀ s, P s → ∃ t, M.step s = .next t ∧ P t) (n : Nat)
    (s : M.State) (hs : P s) : ∃ t, M.run n s = .next t ∧ P t := by
  induction n generalizing s with
  | zero => exact ⟨s, run_zero M s, hs⟩
  | succ n ih =>
    obtain ⟨u, hu, hPu⟩ := hstep s hs
    rw [run_succ_of_next M n s u hu]
    exact ih u hPu

/-- Settles O10: a halted state steps to a halted state with the same status group and UPC. -/
theorem statusGroupIsSticky : Obligations.StatusGroupIsSticky := by
  intro n s hf
  refine run_reaches Sys2Proof.core
    (fun t : State => t.fault = true ∧ t.fcause = s.fcause ∧ t.finfo = s.finfo ∧ t.upc = s.upc) ?_ n s ⟨hf, rfl, rfl, rfl⟩
  intro u hu
  exact ⟨environment u, step_of_halted u hu.1, hu⟩

/-! ### What every step keeps -/

/-- What the parts of the operations, the environment and the advance of UPC keep, every step keeps. -/
theorem KeptByParts.keeps_step {P : State → Prop} (hP : KeptByParts P) (henv : ∀ s, P s → P (environment s))
    (hupc : ∀ s, P s → s.fault = false → P (advanceUpc s)) (s t : State) (hs : P s) (h : step s = .next t) : P t := by
  obtain ⟨-, hx⟩ | ⟨-, -, hx⟩ | ⟨_, _, -, -, -, hx⟩ | ⟨_, i, u, -, -, -, hu, hx⟩ := step_cases s <;>
    rw [hx] at h <;> cases h
  · exact henv s hs
  · exact hP.entry _ _ (henv s hs)
  · have hPu : P u := hP.keeps_exec i _ u (henv s hs) hu
    by_cases hf : u.fault = true
    · rw [afterOperation_of_fault u hf]; exact hPu
    · have hf : u.fault = false := Bool.eq_false_iff.mpr hf
      rw [afterOperation_of_ok u hf]; exact hupc u hPu hf

/-- Settles O45: each part of a step keeps the invariant. -/
theorem stepKeepsWf : Obligations.StepKeepsWf := fun s t hs h =>
  wf_keptByParts.keeps_step (fun _ hs => hs) advanceUpc_wf s t hs h

/-- Settles O46: UPC is an index of ROM, so of the cases of a step the one that stops is excluded. -/
theorem wfStateSteps : Obligations.WfStateSteps := by
  intro s hs
  obtain ⟨-, -, hupc, -⟩ := hs
  obtain ⟨-, h⟩ | ⟨-, hout, -⟩ | ⟨_, _, -, -, -, h⟩ | ⟨_, _, t, -, -, -, -, h⟩ := step_cases s
  · exact ⟨_, h⟩
  · exact absurd hupc (Nat.not_lt.mpr (List.getElem?_eq_none_iff.mp hout))
  · exact ⟨_, h⟩
  · exact ⟨_, h⟩

/-- Settles O49: each part of a step extends the traces. -/
theorem tracesOnlyGrow : Obligations.TracesOnlyGrow := by
  refine ⟨fun _ => ⟨rfl, rfl⟩, fun s t h => ?_⟩
  have hstart : TracesExtend s s := ⟨List.prefix_refl _, List.prefix_refl _⟩
  obtain ⟨⟨leds, hleds⟩, notes, hnotes⟩ : TracesExtend s t :=
    (tracesExtend_keptByParts s).keeps_step (fun _ hs => hs) (fun _ hs _ => hs) s t hstart h
  exact ⟨⟨leds, hleds.symm⟩, notes, hnotes.symm⟩

/-! ### Reset (R43, R230) -/

theorem patFlag_resetWith (c : Config) (v st : Nat) : patFlag (State.resetWith c) v st = false := by
  have hrow : (List.replicate c.voices (List.replicate c.steps false)).getD v [] = List.replicate c.steps false ∨
      (List.replicate c.voices (List.replicate c.steps false)).getD v [] = [] := by
    by_cases hv : v < c.voices <;> simp [List.getD_eq_getElem?_getD, hv]
  rw [patFlag, State.resetWith]
  obtain h | h := hrow <;> rw [h]
  · by_cases hst : st < c.steps <;> simp [List.getD_eq_getElem?_getD, hst]
  · rfl

theorem buf_resetWith (c : Config) (b : Nat) : (State.resetWith c).buf.getD b 0x00#8 = 0x00#8 := by
  by_cases hb : b < c.len <;> simp [State.resetWith, List.getD_eq_getElem?_getD, hb]

theorem bufReadBit_resetWith (c : Config) (i : Nat) : bufReadBit (State.resetWith c) i = false := by
  by_cases hi : i < 8 * (State.resetWith c).cfg.len
  · rw [bufReadBit_of_lt _ i hi, buf_resetWith, BitVec.getLsbD_zero]
  · exact bufReadBit_of_ge _ i (Nat.not_lt.mp hi)

theorem latch_resetWith (c : Config) (k : Nat) : latch (State.resetWith c) k = false := by
  by_cases hk : k < c.keyCount <;> simp [latch, State.resetWith, List.getD_eq_getElem?_getD, hk]

theorem resetWith_sized (c : Config) : FilesSized (State.resetWith c) := by
  refine ⟨List.length_replicate, fun row hrow => ?_, List.length_replicate, List.length_replicate⟩
  rw [List.eq_of_mem_replicate hrow]
  exact List.length_replicate

/-- Settles O42: the register files by the lemmas above, every other piece by definition. -/
theorem resetValues : Obligations.ResetValues := fun c =>
  ⟨patFlag_resetWith c, bufReadBit_resetWith c, latch_resetWith c, rfl, rfl, rfl, rfl, rfl, rfl, rfl, rfl, rfl, rfl, rfl,
    buf_resetWith c, rfl, rfl, rfl, rfl, rfl, resetWith_sized c⟩

/-- Settles O43: UPC is 0 after reset, an index of a ROM that is not empty. -/
theorem resetLeavesHaltedState : Obligations.ResetLeavesHaltedState := by
  intro s hrom
  refine ⟨rfl, rfl, ?word⟩
  have h0 : s.cfg.rom[(applyReset s).upc.toNat]? = some s.cfg.rom[0] := List.getElem?_eq_getElem hrom
  rw [currentWord_of_get (applyReset s) _ h0, h0]

/-- Settles O44: no fault, no event, no line event, and UPC = 0 inside a ROM that is not empty. -/
theorem resetMeetsWf : Obligations.ResetMeetsWf := by
  intro c hc
  have ⟨_, _, _, _, ⟨hrom, _⟩, _⟩ := hc
  exact ⟨hc, resetWith_sized c, hrom, rfl, ⟨fun _ => ⟨rfl, rfl⟩, fun h => absurd h (by simp [State.resetWith])⟩,
    ⟨fun h => absurd h (by simp [State.resetWith, KeyEvent.absent]), fun _ => rfl⟩, rfl, rfl, Nat.zero_mod _⟩

/-- Settles O52: BUF is dark and no frame is committed. -/
theorem resetMeetsOneLit : Obligations.ResetMeetsOneLit := by
  intro c
  have hdark : Dark (State.resetWith c) := fun j _ => bufReadBit_resetWith c j
  refine ⟨fun _ => hdark, fun h => absurd h (by simp [State.resetWith]), .inl hdark, fun f hf => ?_⟩
  cases hf

end Sys2Proof.Machine

/-! ## The canonical control loop (spec/45_control_loop.md section 3)

With a well-formed configuration and the canonical control store a step runs one of five operations, without a fault
(`canonical_step`). None of them puts out the one lit bit but ADVANCE, at the boundary where RENDER is to light the next (R192). -/

namespace Sys2Proof.Machine

/-! ### A step of the loop (R214) -/

/-- The operation at an index of the canonical control store (R105). -/
def canonicalInstr (upc : BitVec 8) : Instr :=
  if upc = 0#8 then .krst
  else if upc = 1#8 then .render
  else if upc = 2#8 then .dispatch
  else if upc = 3#8 then .advance
  else .input

/-- The word at UPC decodes to the operation of the loop. -/
theorem canonical_word (s : State) (hc : Canonical s.cfg) (hs : s.Wf) :
    ∃ w, s.cfg.rom[s.upc.toNat]? = some w ∧ decode w = .ok (canonicalInstr s.upc) := by
  obtain ⟨-, hrom, -⟩ := hc
  obtain ⟨hu, hw⟩ | ⟨hu, hw⟩ | ⟨hu, hw⟩ | ⟨hu, hw⟩ | ⟨hu, hw⟩ := canonical_fetch s hrom hs <;>
    refine ⟨_, hw, ?_⟩ <;> rw [hu]
  · exact decode_encode .krst rfl
  · exact decode_encode .render rfl
  · exact decode_encode .dispatch rfl
  · exact decode_encode .advance rfl
  · exact decode_encode .input rfl

/-- ADVANCE does not fault at the TEMPO of a well-formed configuration (R163). -/
theorem exec_advance_safe (s t : State) (htempo : s.tempo ≠ 0#16) (hf : s.fault = false) (h : exec .advance s = .next t) :
    t.fault = false := by
  obtain ⟨h0, -⟩ | ⟨-, -, hx⟩ | ⟨-, -, hx⟩ := advance_cases s
  · exact absurd h0 htempo
  · rw [hx] at h; cases h; rw [bufWriteBit_fault]; exact hf
  · rw [hx] at h; cases h; exact hf

/-- INPUT does not fault where KEYMAP stays inside the pattern (R190). -/
theorem exec_input_safe (s t : State) (hc : s.cfg.WellFormed) (hs : s.Wf) (hf : s.fault = false)
    (h : exec .input s = .next t) : t.fault = false := by
  obtain ⟨-, hx⟩ | ⟨-, -, hx⟩ | ⟨hv, hout, -⟩ := input_cases s
  · rw [hx] at h; cases h; rw [kpollBody_fault]; exact hf
  · rw [hx] at h; cases h; rw [setFlag_fault, kpollBody_fault]; exact hf
  · obtain ⟨⟨⟨hvoices, -⟩, -⟩, -, -, -, -, ⟨hkey, -⟩, -⟩ := kpollBody_wf s hs
    have hkey := hkey hv
    rw [kpollBody_cfg] at hvoices hkey
    exact absurd ⟨hvoices, by rw [inputStep_kpollBody]; exact keyStep_lt s.cfg hc _ hkey⟩ hout

/-- No operation of the loop faults (R214). -/
theorem canonicalInstr_safe (s t : State) (hc : s.cfg.WellFormed) (hs : s.Wf) (hf : s.fault = false) (upc : BitVec 8)
    (h : exec (canonicalInstr upc) s = .next t) : t.fault = false := by
  have ⟨⟨_, ⟨hsteps, _⟩, _⟩, _, _, htempo, _⟩ := hs
  unfold canonicalInstr at h
  split_ifs at h
  · cases h; exact hf
  · cases h; exact (renderBody_fault s).trans hf
  · rw [exec_dispatch s hsteps] at h; cases h; exact hf
  · exact exec_advance_safe s t (htempo ▸ bpm_ne_zero_of_wellFormed s.cfg hc) hf h
  · exact exec_input_safe s t hc hs hf h

/-- A step of the loop runs its operation without a fault and advances UPC (R214). -/
theorem canonical_step (s : State) (hc : Canonical s.cfg) (hs : s.Wf) (hf : Safe s) :
    ∃ t, exec (canonicalInstr s.upc) (environment s) = .next t ∧ t.fault = false ∧ step s = .next (advanceUpc t) := by
  obtain ⟨w, hw, hd⟩ := canonical_word s hc hs
  obtain ⟨t, ht⟩ := exec_next (canonicalInstr s.upc) (environment s)
  have hsafe : t.fault = false := canonicalInstr_safe (environment s) t hc.1 hs hf s.upc ht
  exact ⟨t, ht, hsafe, by rw [step_of_operation s t w _ hf hw hd ht, afterOperation_of_ok t hsafe]⟩

/-- UPC in the canonical control store walks 0, 1, 2, 3, 4 and back to 1 (R105, R186). -/
theorem advanceUpc_canonical (s : State) (hc : Canonical s.cfg) (hupc : s.upc.toNat < s.cfg.rom.length) :
    (advanceUpc s).upc.toNat = if s.upc.toNat = 4 then 1 else s.upc.toNat + 1 := by
  obtain ⟨-, hrom, hloop⟩ := hc
  have hlen : s.cfg.rom.length = 5 := by rw [hrom]; rfl
  rw [hlen] at hupc
  split
  case isTrue h4 => rw [advanceUpc_of_ge s (by omega), hloop]; rfl
  case isFalse h4 =>
    rw [advanceUpc_of_lt s (by omega), BitVec.toNat_ofNat]
    exact Nat.mod_eq_of_lt (by omega)

/-- UPC after a step of the loop. -/
theorem canonical_upc (s t : State) (hc : Canonical s.cfg) (hs : s.Wf)
    (h : exec (canonicalInstr s.upc) (environment s) = .next t) :
    (advanceUpc t).upc.toNat = if s.upc.toNat = 4 then 1 else s.upc.toNat + 1 := by
  obtain ⟨-, -, hupc, -⟩ := hs
  have hu : t.upc = s.upc := exec_upc _ (environment s) t h
  have hcfg : t.cfg = s.cfg := exec_cfg _ (environment s) t h
  rw [advanceUpc_canonical t (hcfg ▸ hc) (by rw [hu, hcfg]; exact hupc), hu]

/-- Settles O50: the operation of the loop does not fault, and UPC walks on. -/
theorem canonicalLoopNeverFaults : Obligations.CanonicalLoopNeverFaults := by
  intro s hc hs hf
  obtain ⟨t, ht, hsafe, hstep⟩ := canonical_step s hc hs hf
  exact ⟨advanceUpc t, hstep, hsafe, canonical_upc s t hc hs ht⟩

/-! ### One lit step (R192) -/

/-- `t` has the BUF, the playhead and the committed frames of `s`. -/
structure SameLights (s t : State) : Prop where
  cfg : t.cfg = s.cfg
  buf : t.buf = s.buf
  step : t.step = s.step
  ledTrace : t.ledTrace = s.ledTrace

theorem SameLights.bit_eq {s t : State} (h : SameLights s t) (j : Nat) : bufReadBit t j = bufReadBit s j :=
  bufReadBit_congr s t (congrArg Config.len h.cfg) h.buf j

theorem SameLights.playhead_eq {s t : State} (h : SameLights s t) : playhead t = playhead s := by
  rw [playhead, h.step, h.cfg]; rfl

theorem SameLights.dark {s t : State} (h : SameLights s t) (hs : Dark s) : Dark t := fun j hj => by
  rw [h.bit_eq]
  exact hs j (by rwa [← h.cfg])

theorem SameLights.litAtPlayhead {s t : State} (h : SameLights s t) (hs : LitAtPlayhead s) : LitAtPlayhead t := fun j hj => by
  rw [h.bit_eq, h.playhead_eq]
  exact hs j (by rwa [← h.cfg])

theorem SameLights.framesOneLit {s t : State} (h : SameLights s t) (hs : FramesOneLit s) : FramesOneLit t := by
  have hframes : ledFrames t = ledFrames s := by rw [ledFrames, h.cfg, h.ledTrace]; rfl
  intro f hf
  exact hs f (hframes ▸ hf)

/-- KRST, DISPATCH and INPUT leave the lights (R24). -/
theorem exec_sameLights (i : Instr) (hi : i = .krst ∨ i = .dispatch ∨ i = .input) (s t : State)
    (h : exec i s = .next t) : SameLights s t := by
  have hw := exec_written i s t h
  have hbuf := hw.field State.buf enterFault_buf
  have hstep := hw.field State.step enterFault_step
  have hled := hw.field State.ledTrace enterFault_ledTrace
  obtain rfl | rfl | rfl := hi <;> exact ⟨exec_cfg _ s t h, hbuf, hstep, hled⟩

/-- The environment leaves the lights (R166). -/
theorem environment_sameLights (s : State) : SameLights s (environment s) := ⟨rfl, rfl, rfl, rfl⟩

/-- The advance of UPC leaves the lights (R186). -/
theorem advanceUpc_sameLights (s : State) : SameLights s (advanceUpc s) := ⟨rfl, rfl, rfl, rfl⟩

/-- RENDER lights the playhead, whether its bit was set before or not (R187, R192). -/
theorem renderBody_litAtPlayhead (s : State) (hs : FilesSized s) (h : Dark s ∨ LitAtPlayhead s) :
    LitAtPlayhead (renderBody s) := by
  have hplay : playhead (renderBody s) = playhead s := by rw [renderBody, flushBody_eq, bufWriteBit_frame]; rfl
  intro j hj
  rw [renderBody_cfg] at hj
  rw [bufReadBit_renderBody s j hs, hplay]
  by_cases hp : j = playhead s
  · rw [if_pos ⟨hp, hj⟩, decide_eq_true hp]
  · rw [if_neg fun hh => hp hh.1, decide_eq_false hp]
    obtain hd | hl := h
    · exact hd j hj
    · rw [hl j hj, decide_eq_false hp]

/-- The frame that RENDER commits has exactly one 1 where every playhead has an LED (R136, R192). -/
theorem renderBody_framesOneLit (s : State) (hc : s.cfg.WellFormed) (hs : s.Wf) (hsteps : s.cfg.steps ≤ 8 * s.cfg.len)
    (h : Dark s ∨ LitAtPlayhead s) (hfr : FramesOneLit s) : FramesOneLit (renderBody s) := by
  obtain ⟨⟨-, ⟨hpos, -⟩, -⟩, hfiles, -⟩ := hs
  have hcfg := renderBody_cfg s
  have hlit := renderBody_litAtPlayhead s hfiles h
  have hp : playhead (renderBody s) < 8 * (renderBody s).cfg.len := by
    have := playhead_lt (renderBody s) (by rw [hcfg]; exact hpos)
    rw [hcfg] at this ⊢
    omega
  have hone : (frameOf (renderBody s)).count true = 1 := frameOf_count (renderBody s) (by rw [hcfg]; exact hc) _ hp hlit
  intro f hf
  rw [renderBody_ledFrames, List.mem_append, List.mem_singleton] at hf
  obtain hf | rfl := hf
  · exact hfr f hf
  · exact hone

/-- A step boundary puts out the bit of the step that ended, the only one that may be set (R189, R192). -/
theorem boundary_dark (s : State) (hs : FilesSized s) (h : Dark s ∨ LitAtPlayhead s) :
    Dark (bufWriteBit (takeBoundary s) (playhead s) false) := by
  intro j hj
  rw [bufWriteBit_cfg] at hj
  rw [bufReadBit_bufWriteBit_false (takeBoundary s) _ j hs]
  split
  case isTrue => rfl
  case isFalse hne =>
    obtain hd | hl := h
    · exact hd j hj
    · exact (hl j hj).trans (decide_eq_false hne)

/-- ADVANCE leaves BUF dark or as it was, and commits no frame (R189, R192). -/
theorem exec_advance_lights (s t : State) (hs : FilesSized s) (hlight : Dark s ∨ LitAtPlayhead s) (hfr : FramesOneLit s)
    (h : exec .advance s = .next t) : (Dark t ∨ LitAtPlayhead t) ∧ FramesOneLit t := by
  obtain ⟨-, hx⟩ | ⟨-, -, hx⟩ | ⟨-, -, hx⟩ := advance_cases s <;> rw [hx] at h <;> cases h
  · exact ⟨hlight, hfr⟩
  · refine ⟨.inl (boundary_dark s hs hlight), ?_⟩
    rw [bufWriteBit_frame]
    exact hfr
  · exact ⟨hlight, hfr⟩

/-- An operation of the loop leaves BUF dark or lit at the playhead, and commits frames with one 1 only (R192). -/
theorem canonicalInstr_lights (s t : State) (hc : s.cfg.WellFormed) (hs : s.Wf) (hsteps : s.cfg.steps ≤ 8 * s.cfg.len)
    (upc : BitVec 8) (hlight : Dark s ∨ LitAtPlayhead s) (hfr : FramesOneLit s) (h : exec (canonicalInstr upc) s = .next t) :
    (Dark t ∨ LitAtPlayhead t) ∧ FramesOneLit t := by
  have ⟨_, hfiles, _⟩ := hs
  have keeps : SameLights s t → (Dark t ∨ LitAtPlayhead t) ∧ FramesOneLit t := fun hsame =>
    ⟨hlight.imp hsame.dark hsame.litAtPlayhead, hsame.framesOneLit hfr⟩
  unfold canonicalInstr at h
  split_ifs at h
  · exact keeps (exec_sameLights .krst (.inl rfl) s t h)
  · cases h
    exact ⟨.inr (renderBody_litAtPlayhead s hfiles hlight), renderBody_framesOneLit s hc hs hsteps hlight hfr⟩
  · exact keeps (exec_sameLights .dispatch (.inr (.inl rfl)) s t h)
  · exact exec_advance_lights s t hfiles hlight hfr h
  · exact keeps (exec_sameLights .input (.inr (.inr rfl)) s t h)

/-- RENDER at index 1 lights the playhead, and DISPATCH at index 2 leaves it lit (R192). -/
theorem canonicalInstr_litAtPlayhead (s t : State) (hs : FilesSized s) (upc : BitVec 8) (hupc : upc = 1#8 ∨ upc = 2#8)
    (hlight : Dark s ∨ LitAtPlayhead s) (h2 : upc = 2#8 → LitAtPlayhead s) (h : exec (canonicalInstr upc) s = .next t) :
    LitAtPlayhead t := by
  obtain rfl | rfl := hupc
  · obtain rfl : renderBody s = t := Host.Outcome.next.inj h
    exact renderBody_litAtPlayhead s hs hlight
  · exact (exec_sameLights .dispatch (.inr (.inl rfl)) s t h).litAtPlayhead (h2 rfl)

/-- Settles O51: a step leads to UPC 2 or 3 only from 1 or 2, where the bit is lit, and never to UPC 0. -/
theorem stepKeepsOneLitStep : Obligations.StepKeepsOneLitStep := by
  intro s t hc hsteps hs hf hlit h
  obtain ⟨-, hlit23, hlight, hfr⟩ := hlit
  have ⟨_, hfiles, _⟩ := hs
  obtain ⟨u, hu, -, hstep⟩ := canonical_step s hc hs hf
  obtain rfl : advanceUpc u = t := Host.Outcome.next.inj (hstep.symm.trans h)
  have hwalk := canonical_upc s u hc hs hu
  have henv := environment_sameLights s
  have hlight := hlight.imp henv.dark henv.litAtPlayhead
  obtain ⟨hlight', hfr'⟩ := canonicalInstr_lights (environment s) u hc.1 hs hsteps s.upc hlight (henv.framesOneLit hfr) hu
  have hadv := advanceUpc_sameLights u
  refine ⟨fun h0 => ?zero, fun h23 => ?lit, hlight'.imp hadv.dark hadv.litAtPlayhead, hadv.framesOneLit hfr'⟩
  case zero =>
    rw [h0] at hwalk
    split at hwalk <;> simp at hwalk
  case lit =>
    have hafter := h23.imp (congrArg BitVec.toNat) (congrArg BitVec.toNat)
    simp only [BitVec.toNat_ofNat] at hafter
    have hbefore : s.upc.toNat = 1 ∨ s.upc.toNat = 2 := by split at hwalk <;> omega
    have hupc : s.upc = 1#8 ∨ s.upc = 2#8 := hbefore.imp BitVec.eq_of_toNat_eq BitVec.eq_of_toNat_eq
    exact hadv.litAtPlayhead (canonicalInstr_litAtPlayhead (environment s) u hfiles s.upc hupc hlight
      (fun h2 => henv.litAtPlayhead (hlit23 (.inl h2))) hu)

/-! ### Runs of the loop from reset -/

/-- What every state of the hardware as built meets: the configuration it was built with, and the three invariants. -/
structure RunsWell (s : State) : Prop where
  canonical : Canonical s.cfg
  steps : s.cfg.steps ≤ 8 * s.cfg.len
  wf : s.Wf
  safe : Safe s
  oneLit : OneLit s

/-- The hardware as built takes a step, and it runs well after it. -/
theorem RunsWell.takes_step {s : State} (h : RunsWell s) : ∃ t, step s = .next t ∧ RunsWell t := by
  obtain ⟨t, ht, hsafe, -⟩ := canonicalLoopNeverFaults s h.canonical h.wf h.safe
  have hcfg := step_cfg s t ht
  exact ⟨t, ht, hcfg ▸ h.canonical, hcfg ▸ h.steps, stepKeepsWf s t h.wf ht, hsafe,
    stepKeepsOneLitStep s t h.canonical h.steps h.wf h.safe h.oneLit ht⟩

/-- Settles O53: the state after reset runs well, and so does every later one. -/
theorem canonicalRunNeverStops : Obligations.CanonicalRunNeverStops := by
  intro c moves n hc hsteps
  have hreset : RunsWell { State.resetWith c with env := moves } :=
    ⟨hc, hsteps, resetMeetsWf c hc.1.1, rfl, resetMeetsOneLit c⟩
  obtain ⟨t, ht, hwell⟩ := run_reaches Sys2Proof.core RunsWell (fun _ h => h.takes_step) n _ hreset
  obtain ⟨-, -, -, hfr⟩ := hwell.oneLit
  exact ⟨t, ht, hwell.wf, hwell.safe, hfr⟩

end Sys2Proof.Machine

/-! ## Key events (spec/42_keypad_scanner.md, spec/70_reset_and_hazards.md section 3)

The event latch tells what became of the key latches: a key is reported exactly when its latch flips, and the report is the new
value (`moment_latch`, R148). INPUT writes that value to the flag of the key (R242). -/

namespace Sys2Proof.Machine

/-! ### Alternation (R148) -/

/-- A KPOLL either flips the latch of `k` and reports its new value, or leaves it and reports nothing for `k` (R147). -/
theorem kpollBody_latch (s : State) (hs : FilesSized s) (h256 : s.cfg.keyCount ≤ 256) (k : Nat) :
    ((kpollBody s).evt.valid = true ∧ (kpollBody s).evt.key.toNat = k ∧ (kpollBody s).evt.pressed = (!latch s k) ∧
      latch (kpollBody s) k = !latch s k) ∨
    (¬((kpollBody s).evt.valid = true ∧ (kpollBody s).evt.key.toNat = k) ∧ latch (kpollBody s) k = latch s k) := by
  obtain ⟨m, hm, hne, -, hb⟩ | ⟨-, hb⟩ := kpollBody_cases s <;> rw [hb]
  · have hkey : (keyEventOf m ((sample s).getD m false)).key.toNat = m := keyEventOf_key_toNat m _ (by omega)
    rw [latch_reportKey s m k _ hs hm, reportKey_evt, hkey]
    by_cases hk : k = m
    · subst hk
      have hflip : (sample s).getD k false = !latch s k := Bool.eq_not_of_ne hne
      exact .inl ⟨rfl, rfl, hflip, by rw [if_pos rfl, hflip]⟩
    · exact .inr ⟨fun h => hk h.2.symm, if_neg hk⟩
  · exact .inr ⟨fun h => absurd h.1 (by simp [KeyEvent.absent]), rfl⟩

/-- An operation that polls leaves the latches and the event of its KPOLL (R147, R190). -/
theorem exec_polls (i : Instr) (s t : State) (hp : polls i = true) (h : exec i s = .next t) :
    t.prev = (kpollBody s).prev ∧ t.evt = (kpollBody s).evt := by
  cases i with
  | kpoll => cases h; exact ⟨rfl, rfl⟩
  | input =>
    obtain ⟨-, hx⟩ | ⟨-, -, hx⟩ | ⟨-, -, hx⟩ := input_cases s <;> rw [hx] at h <;> cases h <;> exact ⟨rfl, rfl⟩
  | _ => cases hp

/-- An operation that neither polls nor is KRST leaves the latches (R24). -/
theorem exec_keeps_prev (i : Instr) (s t : State) (hp : polls i = false) (hi : i ≠ .krst) (h : exec i s = .next t) :
    t.prev = s.prev := by
  by_contra hne
  obtain rfl | rfl | rfl := exec_keypad_writers i s t h (.inl hne)
  · exact hi rfl
  · cases hp
  · cases hp

/-- The operation of a moment answers the state after it. -/
theorem exec_after (s : State) (m : Moment) : exec m.instr (withInputs s m) = .next (after s m) := by
  obtain ⟨t, ht⟩ := exec_next m.instr (withInputs s m)
  rw [after, ht]

theorem after_cfg (s : State) (m : Moment) : (after s m).cfg = s.cfg := exec_cfg m.instr (withInputs s m) _ (exec_after s m)

theorem after_sized (s : State) (m : Moment) (hs : FilesSized s) : FilesSized (after s m) :=
  filesSized_keptByParts.keeps_exec m.instr (withInputs s m) _ hs (exec_after s m)

/-- The operation of `m` leaves a transition for key `k`. -/
def reports (k : Nat) (s : State) (m : Moment) : Bool :=
  polls m.instr && (after s m).evt.valid && (after s m).evt.key.toNat == k

theorem transitionsOf_cons (k : Nat) (s : State) (m : Moment) (rest : List Moment) :
    transitionsOf k s (m :: rest) =
      if reports k s m then (after s m).evt.pressed :: transitionsOf k (after s m) rest
      else transitionsOf k (after s m) rest := rfl

/-- A moment other than KRST reports a key exactly when the latch of the key flips, and reports its new value (R148). -/
theorem moment_latch (s : State) (m : Moment) (hs : FilesSized s) (h256 : s.cfg.keyCount ≤ 256) (hm : m.instr ≠ .krst)
    (k : Nat) :
    (reports k s m = true ∧ (after s m).evt.pressed = (!latch s k) ∧ latch (after s m) k = !latch s k) ∨
    (reports k s m = false ∧ latch (after s m) k = latch s k) := by
  have h := exec_after s m
  cases hp : polls m.instr with
  | false =>
    have hprev : (after s m).prev = s.prev := exec_keeps_prev m.instr (withInputs s m) _ hp hm h
    exact .inr ⟨by simp [reports, hp], by rw [latch, hprev]; rfl⟩
  | true =>
    obtain ⟨hprev, hevt⟩ := exec_polls m.instr _ _ hp h
    have hlatch : latch (after s m) k = latch (kpollBody (withInputs s m)) k := by rw [latch, hprev]; rfl
    rw [hlatch, reports, hp, hevt]
    obtain ⟨hv, hkey, hpressed, hflip⟩ | ⟨hno, hkept⟩ := kpollBody_latch (withInputs s m) hs h256 k
    · exact .inl ⟨by simp [hv, hkey], hpressed, hflip⟩
    · exact .inr ⟨by simpa using hno, hkept⟩

/-- Settles O29: a report is the opposite of the latch before it and equal to the latch after it, and between two reports of a key
its latch stays (`moment_latch`). -/
theorem keyTransitionsAlternate : Obligations.KeyTransitionsAlternate := by
  intro s run hs h256 hrun k hk
  induction run generalizing s with
  | nil => exact trivial
  | cons m rest ih =>
    have hrest : Alternates (latch (after s m) k) (transitionsOf k (after s m) rest) :=
      ih (after s m) (after_sized s m hs) (by rwa [after_cfg]) (fun m' hm' => hrun m' (List.mem_cons_of_mem m hm'))
        (by rwa [after_cfg])
    rw [transitionsOf_cons]
    obtain ⟨hr, hpressed, hlatch⟩ | ⟨hr, hlatch⟩ := moment_latch s m hs h256 (hrun m List.mem_cons_self) k
    · rw [if_pos hr, hpressed]
      exact ⟨rfl, hlatch ▸ hrest⟩
    · rw [if_neg (Bool.eq_false_iff.mp hr)]
      exact hlatch ▸ hrest

/-! ### The flag of a key (R242) -/

/-- INPUT that reports key `m` writes the flag and the latch of `m` with the same value, and no other flag or latch (R190). -/
theorem exec_input_of_report (s : State) (m : Nat) (b : Bool) (hb : kpollBody s = reportKey m b s) (h256 : m < 256)
    (hvoices : 1 ≤ s.cfg.voices) (hstep : keyStep s.cfg m < s.cfg.steps) :
    exec .input s = .next (setFlag (reportKey m b s) 0 (keyStep s.cfg m) b) := by
  have hkey : inputStep (kpollBody s) = keyStep s.cfg m := by
    rw [inputStep_kpollBody, hb, reportKey_evt, keyEventOf_key_toNat m b h256]
  have hv : (kpollBody s).evt.valid = true := by rw [hb]; rfl
  rw [exec_input_of_in s hv ⟨hvoices, hkey ▸ hstep⟩, hkey, hb]
  rfl

/-- Settles O41: the flag and the latch of the reported key get the same value, and distinct keys have distinct flags. -/
theorem flagFollowsReportedKey : Obligations.FlagFollowsReportedKey := by
  intro s hs hvoices h256 hrange hinj
  obtain ⟨m, hm, -, -, hb⟩ | ⟨-, hb⟩ := kpollBody_cases s
  · have hx := exec_input_of_report s m _ hb (by omega) hvoices (hrange m hm)
    refine ⟨_, hx, rfl, fun k hk hbefore => ?_⟩
    have hlatch : ∀ b, latch (setFlag (reportKey m b s) 0 (keyStep s.cfg m) b) k = if k = m then b else latch s k :=
      fun b => latch_reportKey s m k b hs hm
    rw [hlatch, patFlag_setFlag _ _ _ _ _ _ (reportKey_sized s m _ hs) hvoices (hrange m hm)]
    by_cases hkm : k = m
    · rw [if_pos ⟨rfl, by rw [hkm]⟩, if_pos hkm]
    · rw [if_neg fun h => hkm (hinj k hk m hm h.2), if_neg hkm]
      obtain ⟨-, hkey⟩ | hkept := hbefore
      · rw [setFlag_evt, reportKey_evt, keyEventOf_key_toNat m _ (by omega)] at hkey
        exact absurd hkey.symm hkm
      · exact hkept
  · have hx : exec .input s = .next (clearEvent s) := by
      rw [exec_input_of_none s (by rw [hb]; rfl), hb]
    refine ⟨_, hx, rfl, fun k _ hbefore => ?_⟩
    obtain ⟨hv, -⟩ | hkept := hbefore
    · cases hv
    · exact hkept

end Sys2Proof.Machine

/-! ## What the spec derives of single operations

Decoding row by row (R95, R109), the round trips of the pattern and of the bit buffer (R123, R132), replay and frames of FLUSH
(R136, R137), the tempo at its limits (R247, R22) and the lone flag (R179): each from the law of the operation it speaks of. -/

namespace Sys2Proof

/-! ### Rows of the opcode map -/

/-- A, VC and IDX as numbers of the word (R91). -/
theorem aField_eq (w : Word) : aField w = decide (w.toNat / 2048 % 2 = 1) := by
  have h := aField_toNat w
  cases ha : aField w <;> rw [ha] at h <;> simp [← h]

theorem vcField_eq (w : Word) : vcField w = w.toNat / 256 % 8 := by rw [vcField_hiByte, hiByte_toNat]

theorem idxField_eq (w : Word) : idxField w = w.toNat % 256 := by rw [idxField_loByte, loByte_toNat]

/-- Settles O2: each row by `decode_of_selects`, its operands by the three field equations; a word without operands is the word of
its operation. -/
theorem opcodeMapRowsDecode : Obligations.OpcodeMapRowsDecode := by
  intro w
  have hrow : ∀ row ∈ opcodeMap, w &&& row.mask = row.pattern → decode w = .ok (operandsOf row.mnemonic w) :=
    decode_of_selects w
  rw [← aField_eq, ← vcField_eq, ← idxField_eq]
  exact ⟨hrow ⟨.pset, 0x1000#16, 0xF000#16⟩ (by decide), hrow ⟨.pget, 0x2000#16, 0xF800#16⟩ (by decide),
    hrow ⟨.bset, 0x3000#16, 0xF700#16⟩ (by decide), hrow ⟨.bget, 0x4000#16, 0xFF00#16⟩ (by decide),
    fun h => h ▸ decode_encode .flush rfl, fun h => h ▸ decode_encode .krst rfl, fun h => h ▸ decode_encode .kpoll rfl,
    fun h => h ▸ decode_encode .tadv rfl, hrow ⟨.ndisp, 0x9000#16, 0xFF00#16⟩ (by decide),
    fun h => h ▸ decode_encode .render rfl, fun h => h ▸ decode_encode .dispatch rfl,
    fun h => h ▸ decode_encode .advance rfl, fun h => h ▸ decode_encode .input rfl⟩

/-- Settles O4: nine words are those of their operations, and the last two are illegal by `decode_unused_iff` and
`decode_reserved_iff`. -/
theorem specWordsDecode : Obligations.SpecWordsDecode :=
  ⟨decode_encode (.pset 0 3 true) (by decide), decode_encode (.pset 0 3 false) (by decide),
    decode_encode (.pget 0 3) (by decide), decode_encode (.bset 9 true) (by decide),
    decode_encode (.bset 9 false) (by decide), decode_encode (.bget 9) (by decide), decode_encode (.bget 200) (by decide),
    decode_encode (.ndisp 3) (by decide), decode_encode (.pset 5 16 true) (by decide),
    (decode_unused_iff 0x2803#16).mpr (.inl (by decide)), (decode_reserved_iff 0x0000#16).mpr (.inl (by decide))⟩

end Sys2Proof

namespace Sys2Proof.Machine

/-! ### Round trips (R123, R132) -/

/-- Settles O19: PGET reads the flag, and `patFlag_setFlag` says what it is after the PSET. -/
theorem patternRoundTrip : Obligations.PatternRoundTrip := by
  intro s v st v' st' a hs hv hst hv' hst'
  have hflag := patFlag_setFlag s v st v' st' a hs hv hst
  refine ⟨_, _, _, exec_pset_of_in s v st a ⟨hv, hst⟩, exec_pget_of_in (setFlag s v st a) v' st' ⟨hv', hst'⟩,
    exec_pget_of_in s v' st' ⟨hv', hst'⟩, fun heq => ?same, fun hne => ?other⟩
  case same => exact hflag.trans (if_pos (Prod.mk.inj heq))
  case other => exact hflag.trans (if_neg fun h => hne (Prod.ext h.1 h.2))

/-- Settles O22: BGET reads the bit, and `bufReadBit_bufWriteBit_of_lt` says what it is after the BSET. -/
theorem bitRoundTrip : Obligations.BitRoundTrip := by
  refine ⟨fun s i j b hs hi => ?inRange, fun s i b hi => ?outOfRange⟩
  case inRange =>
    exact ⟨_, _, _, exec_bset s i b, exec_bget _ j, exec_bget s j, bufReadBit_bufWriteBit_of_lt s i j b hs hi⟩
  case outOfRange =>
    exact ⟨_, _, exec_bset s i b, exec_bget _ i, bufReadBit_of_ge _ i (by rw [bufWriteBit_cfg]; exact hi)⟩

/-! ### Replay and frames (R136, R137) -/

/-- Settles O25: the second FLUSH finds the frame of the first (`frameOf_flushBody`), so its events and its frame are the same. -/
theorem flushReplays : Obligations.FlushReplays := by
  intro s
  refine ⟨flushBody s, flushBody (flushBody s), flushEvents (frameOf s), frameOf s, exec_flush s, exec_flush _,
    flushBody_ledTrace s, ?_, ?_, flushBody_ledFrames s, ?_⟩
  · rw [flushBody_ledTrace (flushBody s), frameOf_flushBody]
  · rw [flushEvents_length, frameOf_length]; omega
  · rw [flushBody_ledFrames (flushBody s), frameOf_flushBody]

/-- Settles O26: LEDFRAMES grows by the frame of BUF (`flushBody_ledFrames`), which is then its last. -/
theorem flushCommitsOneFrame : Obligations.FlushCommitsOneFrame := by
  intro s
  have hframes := flushBody_ledFrames s
  exact ⟨flushBody s, exec_flush s, hframes, by rw [ledsShow, hframes, List.getLast?_concat]; rfl⟩

/-! ### The tempo at its limits -/

/-- Settles O33: above 15000 the interval is 0, so the boundary is always due. -/
theorem intervalZeroAlwaysAdvances : Obligations.IntervalZeroAlwaysAdvances := by
  intro s h
  have hne : s.tempo ≠ 0#16 := fun h0 => by rw [h0] at h; exact absurd h (by decide)
  have hdue : 15000 / s.tempo.toNat ≤ (s.time - s.last).toNat := by rw [Nat.div_eq_of_lt h]; exact Nat.zero_le _
  refine ⟨_, exec_advance_of_due s hne hdue, ?_⟩
  rw [bufWriteBit_frame]
  exact ⟨rfl, rfl, rfl⟩

/-- A step boundary moves the playhead to the next step modulo S, if S divides the range of STEP (R22). -/
theorem playhead_takeBoundary (s : State) (hd : s.cfg.steps ∣ 2 ^ 32) :
    playhead (takeBoundary s) = (playhead s + 1) % s.cfg.steps := by
  rw [playhead, playhead, takeBoundary_step, takeBoundary_cfg, BitVec.toNat_add, Nat.mod_mod_of_dvd _ hd, Nat.mod_add_mod]
  rfl

/-- Settles O34: TADV without a fault and with ADV set has taken the boundary. -/
theorem playheadCyclesThroughSteps : Obligations.PlayheadCyclesThroughSteps := by
  intro s t _ hd h hf hadv
  obtain ⟨-, hb⟩ | ⟨-, -, hb⟩ | ⟨-, -, hb⟩ := tadvBody_cases s <;>
    rw [exec, execTadv, hb] at h <;> cases h
  · cases hf
  · exact playhead_takeBoundary s hd
  · cases hadv

/-! ### The lone flag (R179) -/

/-- With the flag of voice `v` at step `p` alone, the voices active at step `q` are `v` alone or none. -/
theorem activeVoices_of_lone_flag (s : State) (v p q : Nat) (hv : v < s.cfg.voices)
    (h : ∀ v' q', patFlag s v' q' = decide (v' = v ∧ q' = p)) :
    activeVoices s q = if q = p then [v] else [] := by
  have hfilter : activeVoices s q = (List.range s.cfg.voices).filter fun v' => decide (v' = v ∧ q = p) :=
    List.filter_congr fun v' _ => h v' q
  rw [hfilter]
  by_cases hq : q = p
  · have hone : (List.range s.cfg.voices).count v = 1 :=
      List.count_eq_one_of_mem List.nodup_range (List.mem_range.mpr hv)
    simp only [hq, and_true, if_true]
    rw [List.filter_eq, hone]
    rfl
  · simp [hq]

/-- Settles O36: the triggers of a dispatch are those of the active voices. -/
theorem loneFlagEmitsOneTrigger : Obligations.LoneFlagEmitsOneTrigger := by
  intro s v p q hv _ hq h
  refine ⟨_, congrArg complete (ndispBody_of_in s q hq), ?_⟩
  rw [progressState_running, emitNotes_noteTrace, activeVoices_of_lone_flag s v p q hv h]
  split <;> rfl

end Sys2Proof.Machine

/-! ## Readers (spec/10_state.md, the column "read by")

TIME, KEYIN and R are overwritten together (`overwrite`), and each operation is compared on the state before and after that: it
does the same, provided the inputs that it reads are those it had (`exec_overwrite`, R24). -/

namespace Sys2Proof.Machine

/-! ### Overwriting what few operations read -/

/-- `s` with other values of TIME, KEYIN and R. -/
def overwrite (time : Count) (keyin : List Bool) (r : Bool) (s : State) : State :=
  { s with time := time, keyin := keyin, r := r }

/-- The operation reads TIME (R24). -/
def readsTime : Instr → Bool
  | .tadv | .advance => true
  | _ => false

/-- The operation reads KEYIN (R24). -/
def readsKeyin : Instr → Bool
  | .krst | .kpoll | .input => true
  | _ => false

/-- The operation writes R (R24). -/
def writesR : Instr → Bool
  | .pget _ _ | .bget _ => true
  | _ => false

theorem readsTime_iff (i : Instr) : readsTime i = true ↔ i = .tadv ∨ i = .advance := by
  cases i <;> simp [readsTime]

theorem readsKeyin_iff (i : Instr) : readsKeyin i = true ↔ i = .krst ∨ i = .kpoll ∨ i = .input := by
  cases i <;> simp [readsKeyin]

theorem writesR_iff (i : Instr) : writesR i = true ↔ (∃ v st, i = .pget v st) ∨ ∃ j, i = .bget j := by
  cases i <;> simp [writesR]

/-- The overwritten run ends where the run from `s` to `t` does, but for the overwritten pieces; R is kept in both runs, or both
write the same value to it. -/
def SameButOverwritten (i : Instr) (time : Count) (keyin : List Bool) (r : Bool) (s t : State) : Prop :=
  ∃ r', exec i (overwrite time keyin r s) = .next (overwrite time keyin r' t) ∧
    ((r' = r ∧ t.r = s.r) ∨ (r' = t.r ∧ writesR i = true))

/-! ### The parts of the operations -/

section Parts

variable (time : Count) (keyin : List Bool) (r : Bool) (s : State)

theorem enterFault_overwrite (cause : FaultCause) :
    enterFault cause (overwrite time keyin r s) = overwrite time keyin r (enterFault cause s) := rfl

theorem bufWriteBit_overwrite (j : Nat) (a : Bool) :
    bufWriteBit (overwrite time keyin r s) j a = overwrite time keyin r (bufWriteBit s j a) := by
  unfold bufWriteBit
  split
  case isTrue h => rw [if_pos (show s.cfg.len ≤ (indexMask j).1 from h)]
  case isFalse h => rw [if_neg (show ¬s.cfg.len ≤ (indexMask j).1 from h)]; rfl

theorem flushBody_overwrite : flushBody (overwrite time keyin r s) = overwrite time keyin r (flushBody s) := by
  have hframe : frameOf (overwrite time keyin r s) = frameOf s := frameOf_congr s _ rfl rfl
  rw [flushBody_eq, flushBody_eq, hframe]
  rfl

/-- KPOLL sees the same changed key under the same KEYIN. -/
theorem kpollBody_overwrite : kpollBody (overwrite time s.keyin r s) = overwrite time s.keyin r (kpollBody s) := by
  have hkey : changedKey (overwrite time s.keyin r s) = changedKey s := rfl
  rw [kpollBody, kpollBody, hkey]
  cases changedKey s <;> rfl

theorem patWrite_overwrite (v st : Nat) (a : Bool) :
    progressState (patWrite (overwrite time keyin r s) v st a) =
      overwrite time keyin r (progressState (patWrite s v st a)) := by
  by_cases h : InPattern s.cfg v st
  · rw [patWrite_of_in s v st a h, patWrite_of_in (overwrite time keyin r s) v st a h]; rfl
  · rw [patWrite_of_out s v st a h, patWrite_of_out (overwrite time keyin r s) v st a h]; rfl

theorem ndispBody_overwrite (st : Nat) :
    progressState (ndispBody st (overwrite time keyin r s)) = overwrite time keyin r (progressState (ndispBody st s)) := by
  by_cases h : st < s.cfg.steps
  · rw [ndispBody_of_in s st h, ndispBody_of_in (overwrite time keyin r s) st h]; rfl
  · rw [ndispBody_of_out s st h, ndispBody_of_out (overwrite time keyin r s) st h]; rfl

/-- TADV takes the same branch under the same TIME. -/
theorem tadvBody_overwrite :
    progressState (tadvBody (overwrite s.time keyin r s)) = overwrite s.time keyin r (progressState (tadvBody s)) := by
  obtain ⟨h, hb⟩ | ⟨h, hd, hb⟩ | ⟨h, hd, hb⟩ := tadvBody_cases s <;> rw [hb]
  · rw [tadvBody_of_zero (overwrite s.time keyin r s) h]; rfl
  · rw [tadvBody_of_due (overwrite s.time keyin r s) h hd]; rfl
  · rw [tadvBody_of_early (overwrite s.time keyin r s) h hd]; rfl

theorem exec_advance_overwrite (t : State) (h : exec .advance s = .next t) :
    exec .advance (overwrite s.time keyin r s) = .next (overwrite s.time keyin r t) := by
  obtain ⟨h0, hx⟩ | ⟨h0, hd, hx⟩ | ⟨h0, hd, hx⟩ := advance_cases s <;> rw [hx] at h <;> cases h
  · exact exec_advance_of_zero (overwrite s.time keyin r s) h0
  · exact (exec_advance_of_due (overwrite s.time keyin r s) h0 hd).trans
      (congrArg _ (bufWriteBit_overwrite s.time keyin r (takeBoundary s) _ _))
  · exact exec_advance_of_early (overwrite s.time keyin r s) h0 hd

/-- The second half of INPUT looks at EVT and PAT alone (R190). -/
theorem applyEvent_overwrite :
    progressState (applyEvent (overwrite time keyin r s)) = overwrite time keyin r (progressState (applyEvent s)) := by
  have hevt : (overwrite time keyin r s).evt = s.evt := rfl
  rw [applyEvent, applyEvent, hevt]
  split
  case isTrue => exact patWrite_overwrite time keyin r s _ _ _
  case isFalse => rfl

/-- PGET reads the same flag into R, or faults and leaves R (R121). -/
theorem exec_pget_overwrite (t : State) (v st : Nat) (h : exec (.pget v st) s = .next t) :
    SameButOverwritten (.pget v st) time keyin r s t := by
  by_cases hp : InPattern s.cfg v st
  · rw [exec_pget_of_in s v st hp] at h
    cases h
    exact ⟨_, exec_pget_of_in (overwrite time keyin r s) v st hp, .inr ⟨rfl, rfl⟩⟩
  · rw [exec_pget_of_out s v st hp] at h
    cases h
    exact ⟨r, exec_pget_of_out (overwrite time keyin r s) v st hp, .inl ⟨rfl, rfl⟩⟩

/-- For an operation that does not write R it is enough that the overwritten run keeps the overwritten R. -/
theorem sameButOverwritten_of_kept (i : Instr) (t : State) (hi : writesR i = false) (h : exec i s = .next t)
    (hx : exec i (overwrite time keyin r s) = .next (overwrite time keyin r t)) :
    SameButOverwritten i time keyin r s t := by
  refine ⟨r, hx, .inl ⟨rfl, ?_⟩⟩
  by_contra hne
  obtain ⟨v, st, rfl⟩ | ⟨j, rfl⟩ := exec_r_writers i s t h hne <;> cases hi

end Parts

/-! ### The operations -/

/-- Every operation does the same after the overwriting, if the inputs that it reads keep their values (R24). -/
theorem exec_overwrite (i : Instr) (s t : State) (h : exec i s = .next t) (time : Count) (keyin : List Bool) (r : Bool)
    (htime : readsTime i = true → time = s.time) (hkeyin : readsKeyin i = true → keyin = s.keyin) :
    SameButOverwritten i time keyin r s t := by
  have kept := sameButOverwritten_of_kept time keyin r s i t
  cases i with
  | pget v st => exact exec_pget_overwrite time keyin r s t v st h
  | bget j =>
    cases h
    exact ⟨_, exec_bget (overwrite time keyin r s) j, .inr ⟨rfl, rfl⟩⟩
  | pset v st a =>
    refine kept rfl h ?_
    cases h
    exact congrArg _ (patWrite_overwrite time keyin r s v st a)
  | bset j a =>
    refine kept rfl h ?_
    cases h
    exact congrArg _ (bufWriteBit_overwrite time keyin r s j a)
  | flush =>
    refine kept rfl h ?_
    cases h
    exact congrArg _ (flushBody_overwrite time keyin r s)
  | krst =>
    refine kept rfl h ?_
    cases h
    rw [hkeyin rfl]
    rfl
  | kpoll =>
    refine kept rfl h ?_
    cases h
    rw [hkeyin rfl]
    exact congrArg _ (kpollBody_overwrite time r s)
  | tadv =>
    refine kept rfl h ?_
    cases h
    rw [htime rfl]
    exact congrArg _ (tadvBody_overwrite keyin r s)
  | ndisp st =>
    refine kept rfl h ?_
    cases h
    exact congrArg _ (ndispBody_overwrite time keyin r s st)
  | render =>
    refine kept rfl h ?_
    cases h
    have hbit := bufWriteBit_overwrite time keyin r s (playhead s) true
    exact congrArg _ ((congrArg flushBody hbit).trans (flushBody_overwrite time keyin r _))
  | dispatch =>
    refine kept rfl h ?_
    cases h
    exact congrArg _ (ndispBody_overwrite time keyin r s (playhead s))
  | advance =>
    refine kept rfl h ?_
    rw [htime rfl]
    exact exec_advance_overwrite keyin r s t h
  | input =>
    refine kept rfl h ?_
    cases h
    rw [hkeyin rfl]
    have hpoll := kpollBody_overwrite time r s
    exact congrArg _ ((congrArg (progressState ∘ applyEvent) hpoll).trans (applyEvent_overwrite time s.keyin r _))

/-- Settles O48: one of the three pieces is overwritten and the other two keep their values, which no operation changes but R. -/
theorem readersOfInputsAndR : Obligations.ReadersOfInputsAndR := by
  intro i s t h
  obtain ⟨-, -, htime, -, hkeyin, -, -⟩ := ReadOnly.mk.inj (exec_readOnly i s t h)
  have same_r : ∀ {r'}, ((r' = s.r ∧ t.r = s.r) ∨ (r' = t.r ∧ writesR i = true)) → r' = t.r := fun hr =>
    hr.elim (fun hkept => hkept.1.trans hkept.2.symm) And.left
  refine ⟨fun h1 h2 x => ?time, fun h1 h2 h3 x => ?keyin, fun x => ?r⟩
  case time =>
    have hi : readsTime i = true → x = s.time := fun hi => ((readsTime_iff i).mp hi).elim (absurd · h1) (absurd · h2)
    obtain ⟨r', hx, hr⟩ := exec_overwrite i s t h x s.keyin s.r hi fun _ => rfl
    rw [same_r hr] at hx
    exact hx.trans (by rw [← hkeyin]; rfl)
  case keyin =>
    have hi : readsKeyin i = true → x = s.keyin := fun hi =>
      ((readsKeyin_iff i).mp hi).elim (absurd · h1) (Or.elim · (absurd · h2) (absurd · h3))
    obtain ⟨r', hx, hr⟩ := exec_overwrite i s t h s.time x s.r (fun _ => rfl) hi
    rw [same_r hr] at hx
    exact hx.trans (by rw [← htime]; rfl)
  case r =>
    obtain ⟨r', hx, hr⟩ := exec_overwrite i s t h s.time s.keyin x (fun _ => rfl) fun _ => rfl
    refine ⟨r', hx.trans (by rw [← htime, ← hkeyin]; rfl), ?_⟩
    exact hr.imp And.left fun hw => (writesR_iff i).mp hw.2

end Sys2Proof.Machine
